-- ==== Sys2Proof/Word.lean ====
section
/-! DEFINITION. The word types of the block (R6, R8, R100, R103): bytes, 16-bit words, 12-bit addresses, register indices. -/

namespace Sys2Proof

/-- An 8-bit unsigned value: a `V` register, a timer, a memory byte, an `NN` immediate (R6, R8). -/
abbrev Byte := BitVec 8

/-- A 16-bit unsigned value: an instruction word, `PC`, `I`, a stack entry (R6, R301). -/
abbrev Word := BitVec 16

/-- A 12-bit address field `NNN` (R12, R301). -/
abbrev Addr12 := BitVec 12

/-- A register index 0 to 15, the value of an `X` or `Y` field (R100, R303). -/
abbrev Reg := Fin 16

end Sys2Proof
end

