-- ==== Sys2Proof/Syntax.lean ====
section
/-! DEFINITION. The 34 instructions of the block (R2, R304), one constructor per row of spec/opcode_table.json, their operand
shapes (R302) and their operand numbers in the order of the assembler syntax (R309). -/

namespace Sys2Proof

/-- The instructions, in the order of the opcode map R304. `x` and `y` are register indices, `nn` an 8-bit and `n` a 4-bit
immediate, `nnn` a 12-bit address (R12, R303). -/
inductive Instr where
  /-- `00E0` CLS (R400). -/
  | cls
  /-- `00EE` RET (R401). -/
  | ret
  /-- `1NNN` JP addr (R402). -/
  | jp (nnn : Addr12)
  /-- `2NNN` CALL addr (R403). -/
  | call (nnn : Addr12)
  /-- `3XNN` SE Vx, byte (R420). -/
  | seByte (x : Reg) (nn : Byte)
  /-- `4XNN` SNE Vx, byte (R421). -/
  | sneByte (x : Reg) (nn : Byte)
  /-- `5XY0` SE Vx, Vy (R422). -/
  | seReg (x y : Reg)
  /-- `6XNN` LD Vx, byte (R440). -/
  | ldByte (x : Reg) (nn : Byte)
  /-- `7XNN` ADD Vx, byte (R441). -/
  | addByte (x : Reg) (nn : Byte)
  /-- `8XY0` LD Vx, Vy (R442). -/
  | ldReg (x y : Reg)
  /-- `8XY1` OR Vx, Vy (R443). -/
  | orReg (x y : Reg)
  /-- `8XY2` AND Vx, Vy (R444). -/
  | andReg (x y : Reg)
  /-- `8XY3` XOR Vx, Vy (R445). -/
  | xorReg (x y : Reg)
  /-- `8XY4` ADD Vx, Vy (R448). -/
  | addReg (x y : Reg)
  /-- `8XY5` SUB Vx, Vy (R449). -/
  | subReg (x y : Reg)
  /-- `8XY6` SHR Vx, Vy (R450). -/
  | shrReg (x y : Reg)
  /-- `8XY7` SUBN Vx, Vy (R451). -/
  | subnReg (x y : Reg)
  /-- `8XYE` SHL Vx, Vy (R452). -/
  | shlReg (x y : Reg)
  /-- `9XY0` SNE Vx, Vy (R423). -/
  | sneReg (x y : Reg)
  /-- `ANNN` LD I, addr (R480). -/
  | ldI (nnn : Addr12)
  /-- `BNNN` JP V0, addr (R404). -/
  | jpV0 (nnn : Addr12)
  /-- `CXNN` RND Vx, byte (R490). -/
  | rnd (x : Reg) (nn : Byte)
  /-- `DXYN` DRW Vx, Vy, nibble (R500). -/
  | drw (x y : Reg) (n : Fin 16)
  /-- `EX9E` SKP Vx (R424). -/
  | skp (x : Reg)
  /-- `EXA1` SKNP Vx (R425). -/
  | sknp (x : Reg)
  /-- `FX07` LD Vx, DT (R521). -/
  | ldVxDT (x : Reg)
  /-- `FX0A` LD Vx, K (R526). -/
  | ldVxK (x : Reg)
  /-- `FX15` LD DT, Vx (R522). -/
  | ldDTVx (x : Reg)
  /-- `FX18` LD ST, Vx (R523). -/
  | ldSTVx (x : Reg)
  /-- `FX1E` ADD I, Vx (R481). -/
  | addI (x : Reg)
  /-- `FX29` LD F, Vx (R482). -/
  | ldF (x : Reg)
  /-- `FX33` LD B, Vx (R483). -/
  | ldB (x : Reg)
  /-- `FX55` LD [I], Vx (R484). -/
  | stRegs (x : Reg)
  /-- `FX65` LD Vx, [I] (R486). -/
  | ldRegs (x : Reg)
  deriving DecidableEq, Repr

/-- The six operand shapes of R302. -/
inductive Shape where
  | none | addr | regImm8 | regReg | regRegImm4 | reg
  deriving DecidableEq, Repr

/-- The operand shape of each instruction (the table of R302). -/
def Instr.shape : Instr → Shape
  | .cls | .ret => .none
  | .jp _ | .call _ | .ldI _ | .jpV0 _ => .addr
  | .seByte _ _ | .sneByte _ _ | .ldByte _ _ | .addByte _ _ | .rnd _ _ => .regImm8
  | .seReg _ _ | .ldReg _ _ | .orReg _ _ | .andReg _ _ | .xorReg _ _ => .regReg
  | .addReg _ _ | .subReg _ _ | .shrReg _ _ | .subnReg _ _ | .shlReg _ _ | .sneReg _ _ => .regReg
  | .drw _ _ _ => .regRegImm4
  | .skp _ | .sknp _ => .reg
  | .ldVxDT _ | .ldVxK _ | .ldDTVx _ | .ldSTVx _ | .addI _ => .reg
  | .ldF _ | .ldB _ | .stRegs _ | .ldRegs _ => .reg

/-- The operands of an instruction as plain numbers, in the order the assembler syntax writes them (R309). -/
def Instr.operands : Instr → List Nat
  | .cls | .ret => []
  | .jp a | .call a | .ldI a | .jpV0 a => [a.toNat]
  | .seByte x b | .sneByte x b | .ldByte x b | .addByte x b | .rnd x b => [x.val, b.toNat]
  | .seReg x y | .ldReg x y | .orReg x y | .andReg x y | .xorReg x y => [x.val, y.val]
  | .addReg x y | .subReg x y | .shrReg x y | .subnReg x y | .shlReg x y | .sneReg x y => [x.val, y.val]
  | .drw x y n => [x.val, y.val, n.val]
  | .skp x | .sknp x => [x.val]
  | .ldVxDT x | .ldVxK x | .ldDTVx x | .ldSTVx x | .addI x => [x.val]
  | .ldF x | .ldB x | .stRegs x | .ldRegs x => [x.val]

end Sys2Proof
end

