-- ==== Sys2Proof/WellFormed.lean ====
section
/-! DEFINITION. Well-formed operands (R302, R303, R309): the number of operands of a shape and the range of each. The operand
types of `Instr` leave nothing else to check, so every `Instr` passes; a list of operand numbers need not. -/

namespace Sys2Proof

/-- How many values each operand of a shape may take, in order: 16 for a register or a nibble, 256 for a byte, 4096 for an
address (R302, R303, R309). -/
def Shape.limits : Shape → List Nat
  | .none => []
  | .addr => [4096]
  | .regImm8 => [16, 256]
  | .regReg => [16, 16]
  | .regRegImm4 => [16, 16, 16]
  | .reg => [16]

/-- Each number is below its limit, and there are as many numbers as limits. -/
def withinLimits : List Nat → List Nat → Bool
  | [], [] => true
  | limit :: limits, n :: ns => decide (n < limit) && withinLimits limits ns
  | _, _ => false

/-- The shape takes these operand numbers (R302, R303). -/
def Shape.admits (s : Shape) (operands : List Nat) : Bool :=
  withinLimits s.limits operands

/-- The instruction's operands fit its shape. -/
def Instr.wellFormed (i : Instr) : Bool :=
  i.shape.admits i.operands

end Sys2Proof
end

