-- ==== Sys2Proof/Decode.lean ====
section
/-! DEFINITION. The decoder (R301, R304 to R308), total on words and on bytes, and after it the encoder, written from the
patterns of the opcode map R304. The bit patterns are the spec's from general knowledge (log 9), matched strictly (log 10). -/

namespace Sys2Proof

/-- Field `op`, bits 15:12 (R301). -/
def fieldOp (w : Word) : BitVec 4 := w.extractLsb' 12 4

/-- Field `X`, bits 11:8, a register index (R301, R303). -/
def fieldX (w : Word) : Reg := (w.extractLsb' 8 4).toFin

/-- Field `Y`, bits 7:4, a register index (R301, R303). -/
def fieldY (w : Word) : Reg := (w.extractLsb' 4 4).toFin

/-- Field `N`, bits 3:0 (R301). -/
def fieldN (w : Word) : Fin 16 := (w.extractLsb' 0 4).toFin

/-- Field `NN`, bits 7:0 (R301). -/
def fieldNN (w : Word) : Byte := w.extractLsb' 0 8

/-- Field `NNN`, bits 11:0 (R301). -/
def fieldNNN (w : Word) : Addr12 := w.extractLsb' 0 12

/-- Family 8: the bottom nibble is the sub-opcode (R305). -/
def decodeFamily8 (w : Word) : Option Instr :=
  match (fieldN w).val with
  | 0x0 => some (.ldReg (fieldX w) (fieldY w))
  | 0x1 => some (.orReg (fieldX w) (fieldY w))
  | 0x2 => some (.andReg (fieldX w) (fieldY w))
  | 0x3 => some (.xorReg (fieldX w) (fieldY w))
  | 0x4 => some (.addReg (fieldX w) (fieldY w))
  | 0x5 => some (.subReg (fieldX w) (fieldY w))
  | 0x6 => some (.shrReg (fieldX w) (fieldY w))
  | 0x7 => some (.subnReg (fieldX w) (fieldY w))
  | 0xE => some (.shlReg (fieldX w) (fieldY w))
  | _ => none

/-- Family F: the bottom byte is the sub-opcode (R305). -/
def decodeFamilyF (w : Word) : Option Instr :=
  if fieldNN w = 0x07#8 then some (.ldVxDT (fieldX w))
  else if fieldNN w = 0x0A#8 then some (.ldVxK (fieldX w))
  else if fieldNN w = 0x15#8 then some (.ldDTVx (fieldX w))
  else if fieldNN w = 0x18#8 then some (.ldSTVx (fieldX w))
  else if fieldNN w = 0x1E#8 then some (.addI (fieldX w))
  else if fieldNN w = 0x29#8 then some (.ldF (fieldX w))
  else if fieldNN w = 0x33#8 then some (.ldB (fieldX w))
  else if fieldNN w = 0x55#8 then some (.stRegs (fieldX w))
  else if fieldNN w = 0x65#8 then some (.ldRegs (fieldX w))
  else none

/-- `Decode` of R305; `none` is its `Unknown`, an illegal word (R306). -/
def decodeWord (w : Word) : Option Instr :=
  match (fieldOp w).toNat with
  | 0x0 => if w = 0x00E0#16 then some .cls else if w = 0x00EE#16 then some .ret else none
  | 0x1 => some (.jp (fieldNNN w))
  | 0x2 => some (.call (fieldNNN w))
  | 0x3 => some (.seByte (fieldX w) (fieldNN w))
  | 0x4 => some (.sneByte (fieldX w) (fieldNN w))
  | 0x5 => if (fieldN w).val = 0 then some (.seReg (fieldX w) (fieldY w)) else none
  | 0x6 => some (.ldByte (fieldX w) (fieldNN w))
  | 0x7 => some (.addByte (fieldX w) (fieldNN w))
  | 0x8 => decodeFamily8 w
  | 0x9 => if (fieldN w).val = 0 then some (.sneReg (fieldX w) (fieldY w)) else none
  | 0xA => some (.ldI (fieldNNN w))
  | 0xB => some (.jpV0 (fieldNNN w))
  | 0xC => some (.rnd (fieldX w) (fieldNN w))
  | 0xD => some (.drw (fieldX w) (fieldY w) (fieldN w))
  | 0xE =>
    if fieldNN w = 0x9E#8 then some (.skp (fieldX w))
    else if fieldNN w = 0xA1#8 then some (.sknp (fieldX w))
    else none
  | _ => decodeFamilyF w

/-- Why bytes give no instruction. -/
inductive Reject where
  /-- Fewer than 2 bytes: every instruction is 2 bytes long (R308). -/
  | truncated
  /-- The word matches no row of the opcode map (R306). -/
  | unknownOpcode (w : Word)
  deriving DecidableEq, Repr

/-- The word of two bytes, the first the more significant (R202). -/
def wordOfBytes (hi lo : Byte) : Word := hi ++ lo

/-- The two bytes of a word in the order they are stored, the more significant first (R202). -/
def bytesOfWord (w : Word) : List Byte := [w.extractLsb' 8 8, w.extractLsb' 0 8]

/-- Decoding at the front of any list of bytes: the instruction and the bytes after its 2 (R308), or the reason for none. -/
def decode : List Byte → Except Reject (Instr × List Byte)
  | hi :: lo :: rest =>
    match decodeWord (wordOfBytes hi lo) with
    | some i => .ok (i, rest)
    | none => .error (.unknownOpcode (wordOfBytes hi lo))
  | _ => .error .truncated

/-- The word `op ‖ X ‖ Y ‖ N` (R301). -/
def packXYN (op : BitVec 4) (x y n : Fin 16) : Word :=
  op ++ (BitVec.ofFin x : BitVec 4) ++ (BitVec.ofFin y : BitVec 4) ++ (BitVec.ofFin n : BitVec 4)

/-- The word `op ‖ X ‖ NN` (R301). -/
def packXNN (op : BitVec 4) (x : Reg) (nn : Byte) : Word :=
  op ++ (BitVec.ofFin x : BitVec 4) ++ nn

/-- The word `op ‖ NNN` (R301). -/
def packNNN (op : BitVec 4) (nnn : Addr12) : Word :=
  op ++ nnn

/-- The word of an instruction (the `pattern` column of R304). -/
def encode : Instr → Word
  | .cls => 0x00E0#16
  | .ret => 0x00EE#16
  | .jp nnn => packNNN 0x1#4 nnn
  | .call nnn => packNNN 0x2#4 nnn
  | .seByte x nn => packXNN 0x3#4 x nn
  | .sneByte x nn => packXNN 0x4#4 x nn
  | .seReg x y => packXYN 0x5#4 x y 0x0
  | .ldByte x nn => packXNN 0x6#4 x nn
  | .addByte x nn => packXNN 0x7#4 x nn
  | .ldReg x y => packXYN 0x8#4 x y 0x0
  | .orReg x y => packXYN 0x8#4 x y 0x1
  | .andReg x y => packXYN 0x8#4 x y 0x2
  | .xorReg x y => packXYN 0x8#4 x y 0x3
  | .addReg x y => packXYN 0x8#4 x y 0x4
  | .subReg x y => packXYN 0x8#4 x y 0x5
  | .shrReg x y => packXYN 0x8#4 x y 0x6
  | .subnReg x y => packXYN 0x8#4 x y 0x7
  | .shlReg x y => packXYN 0x8#4 x y 0xE
  | .sneReg x y => packXYN 0x9#4 x y 0x0
  | .ldI nnn => packNNN 0xA#4 nnn
  | .jpV0 nnn => packNNN 0xB#4 nnn
  | .rnd x nn => packXNN 0xC#4 x nn
  | .drw x y n => packXYN 0xD#4 x y n
  | .skp x => packXNN 0xE#4 x 0x9E#8
  | .sknp x => packXNN 0xE#4 x 0xA1#8
  | .ldVxDT x => packXNN 0xF#4 x 0x07#8
  | .ldVxK x => packXNN 0xF#4 x 0x0A#8
  | .ldDTVx x => packXNN 0xF#4 x 0x15#8
  | .ldSTVx x => packXNN 0xF#4 x 0x18#8
  | .addI x => packXNN 0xF#4 x 0x1E#8
  | .ldF x => packXNN 0xF#4 x 0x29#8
  | .ldB x => packXNN 0xF#4 x 0x33#8
  | .stRegs x => packXNN 0xF#4 x 0x55#8
  | .ldRegs x => packXNN 0xF#4 x 0x65#8

/-- The instruction the decoder reads from an opcode-table word of `nbits` bits (bits above are 0), laid out as the block
stores it: big-endian (R202). -/
def decodeTableWord (nbits w : Nat) : Option Instr :=
  match decode (bytesOfWord (BitVec.ofNat 16 (w % 2 ^ nbits))) with
  | .ok (i, _) => some i
  | .error _ => none

end Sys2Proof
end

