-- ==== Sys2Proof/Machine/Flags.lean ====
section
/-! DEFINITION. The values written to `VF` as a flag (R101, R446): carry, borrow, the bits shifted out, collision; and the byte
results that go with them. -/

namespace Sys2Proof.Machine

/-- Carry of `a + b`: 1 if the exact sum is above 255, else 0 (R446, R448). -/
def carryFlag (a b : Byte) : Byte := if a.toNat + b.toNat > 255 then 1#8 else 0#8

/-- Borrow of `a - b`: 1 if `a < b` as unsigned bytes, else 0 (R446, R449; C7). -/
def borrowFlag (a b : Byte) : Byte := if a.toNat < b.toNat then 1#8 else 0#8

/-- The bit a right shift shifts out: `v AND 0x01` (R450). -/
def shrFlag (v : Byte) : Byte := v &&& 0x01#8

/-- The raw masked high bit before a left shift: `v AND 0x80`, 0x00 or 0x80 (R452; C1). -/
def shlFlag (v : Byte) : Byte := v &&& 0x80#8

/-- Collision: 1 if any pixel went from set to unset, else 0 (R500). -/
def collisionFlag (hit : Bool) : Byte := if hit then 1#8 else 0#8

/-- `(a + b) mod 256` (R446). -/
def addBytes (a b : Byte) : Byte := BitVec.ofNat 8 (a.toNat + b.toNat)

/-- `(a - b) mod 256` (R446). -/
def subBytes (a b : Byte) : Byte := BitVec.ofNat 8 (256 + a.toNat - b.toNat)

/-- `v >> 1`, bit 7 of the result 0 (R450). -/
def shrByte (v : Byte) : Byte := v >>> 1

/-- `(v << 1) mod 256`, bit 0 of the result 0 (R452). -/
def shlByte (v : Byte) : Byte := v <<< 1

end Sys2Proof.Machine
end

