-- ==== Sys2Proof/Config.lean ====
section
/-! DEFINITION. The parameters of the block: the fixed values of R6, and the values the spec leaves open (R7), which are
constants without a body, so that no proof can see them. The font (R131) stands in Sys2Proof/Machine/Font.lean. -/

namespace Sys2Proof.Config

/-- `MEM_SIZE`: 4096 bytes, addresses 0x000 to 0xFFF (R6, R200). -/
def memSize : Nat := 0x1000

/-- `PROGRAM_START`: where a program is loaded, and the initial `PC` (R6, R201). -/
def programStart : Nat := 0x200

/-- `ROM_MAX`: the size of the program region, 3232 bytes (R6, R710). -/
def romMax : Nat := 0xCA0

/-- `FONT_BASE`: the address of glyph 0 (R6, R482). -/
def fontBase : Nat := 0x000

/-- The size of one font glyph in bytes (R6, R130). -/
def glyphSize : Nat := 5

/-- `TIMER_PERIOD` in the unit of `now`: nominally 1/60 second, the exact value `OPEN` (R6, R620, D22).
A FREE VALUE: nothing is known of it (log 4). -/
opaque timerPeriod : Nat

/-- `t0`, the wall-clock time at construction (R5, R110). A FREE VALUE (log 6). -/
opaque constructTime : Nat

/-- The wall-clock input `now` that step number `n` is given (R5, R135, R620), under no law: it may stand still, jump or
go back. A FREE VALUE for each step (log 5). -/
opaque clockInput : Nat → Nat

/-- The random draw `rnd` that step number `n` is given (R5, R135, R490), under no law. A FREE VALUE for each step (log 5). -/
opaque randomInput : Nat → Byte

end Sys2Proof.Config
end

