-- ==== Sys2Proof/Machine/Font.lean ====
section
/-! DEFINITION. `FONT` (R7, R130, R131): the type of the parameter, and its default, the conventional CHIP-8 hexadecimal font, which
is general knowledge and not in the source (log 8). -/

namespace Sys2Proof.Machine

/-- Glyphs 0 to 3 (R131). -/
def fontGlyphs0to3 : List Byte :=
  [0xF0, 0x90, 0x90, 0x90, 0xF0] ++ [0x20, 0x60, 0x20, 0x20, 0x70] ++
  [0xF0, 0x10, 0xF0, 0x80, 0xF0] ++ [0xF0, 0x10, 0xF0, 0x10, 0xF0]

/-- Glyphs 4 to 7 (R131). -/
def fontGlyphs4to7 : List Byte :=
  [0x90, 0x90, 0xF0, 0x10, 0x10] ++ [0xF0, 0x80, 0xF0, 0x10, 0xF0] ++
  [0xF0, 0x80, 0xF0, 0x90, 0xF0] ++ [0xF0, 0x10, 0x20, 0x40, 0x40]

/-- Glyphs 8 to B (R131). -/
def fontGlyphs8toB : List Byte :=
  [0xF0, 0x90, 0xF0, 0x90, 0xF0] ++ [0xF0, 0x90, 0xF0, 0x10, 0xF0] ++
  [0xF0, 0x90, 0xF0, 0x90, 0x90] ++ [0xE0, 0x90, 0xE0, 0x90, 0xE0]

/-- Glyphs C to F (R131). -/
def fontGlyphsCtoF : List Byte :=
  [0xF0, 0x80, 0x80, 0x80, 0xF0] ++ [0xE0, 0x90, 0x90, 0x90, 0xE0] ++
  [0xF0, 0x80, 0xF0, 0x80, 0xF0] ++ [0xF0, 0x80, 0xF0, 0x80, 0x80]

/-- The 80 bytes of the default font, glyph d at offset 5 * d (R130, R131). -/
def font : List Byte :=
  fontGlyphs0to3 ++ fontGlyphs4to7 ++ fontGlyphs8toB ++ fontGlyphsCtoF

/-- A value of the parameter `FONT`: 80 bytes (R7, R131). -/
abbrev FontTable := Vector Byte 80

/-- The default of `FONT` (R131, D15). -/
def defaultFont : FontTable := ⟨font.toArray, rfl⟩

end Sys2Proof.Machine
end

