-- ==== Sys2Proof/Machine/State.lean ====
section
/-! DEFINITION. The state of the block as plain data (R136), the ways a step can stop, and the state after reset (R700). -/

namespace Sys2Proof.Machine

/-- Memory: the bytes that differ from what `construct` puts there with the default font, as (address, byte) pairs in strictly rising order of
address (R125; the form is `Memory.wf`, what an unlisted address reads as is `Memory.initial`). -/
abbrev Memory := List Host.Cell

/-- The display buffer: 32 rows of 64 Boolean pixels, `true` is set (R126). -/
abbrev Display := Vector (Vector Bool 64) 32

/-- The step-machine mode (R120). -/
inductive Mode where
  | running | awaitingKey | halted
  deriving DecidableEq, Repr

/-- The causes of the error taxonomy (R600). -/
inductive Cause where
  /-- Returned by `load`, never recorded as a machine fault (R607). -/
  | romTooLarge
  /-- Raised by `2NNN` with SP = 16 (R403). -/
  | stackOverflow
  /-- Raised by `00EE` with SP = 0 (R401). -/
  | stackUnderflow
  /-- Raised by a fetched word that matches no row (R306). -/
  | unknownOpcode
  /-- Raised by the fetch (R300), `DXYN`, `FX33`, `FX55`, `FX65`, `FX29` and `FX1E` (R600). -/
  | addressOutOfRange
  /-- Raised by `EX9E`, `EXA1` and the host's `setKey` (R600). -/
  | invalidKeyIndex
  deriving DecidableEq, Repr

/-- The fault record (R121). -/
structure FaultRecord where
  /-- The cause. -/
  kind : Cause
  /-- The PC of the faulting fetch or instruction. -/
  pc : Word
  /-- The word fetched, or none if the fetch itself faulted or the host's `setKey` faulted. -/
  opcode : Option Word
  /-- The offending address or value. -/
  info : Nat
  deriving DecidableEq, Repr

/-- The complete state of the block (R136), and four fields of the model's own: the inputs of the coming step, the count of
steps made, and the history of render events. -/
structure State where
  /-- `V[0..15]`; `v[15]` is `VF` (R100, R101). -/
  v : Vector Byte 16
  /-- `PC` (R103). -/
  pc : Word
  /-- `I`, the index register (R106). -/
  idx : Word
  /-- `SP`, the number of occupied stack entries, 0 to 16 (R107, R108; log 21). -/
  sp : Fin 17
  /-- `S[0..15]` (R107). -/
  stack : Vector Word 16
  /-- `DT`, the delay timer (R109). -/
  dt : Byte
  /-- `ST`, the sound timer (R109). -/
  st : Byte
  /-- `last_tick`, the time of the last timer decrement (R110). -/
  lastTick : Nat
  /-- The step-machine mode (R120). -/
  mode : Mode
  /-- The fault record (R121). -/
  fault : Option FaultRecord
  /-- `M[0x000..0xFFF]` (R125). -/
  mem : Memory
  /-- `D[0..31][0..63]` (R126). -/
  display : Display
  /-- `K[0..15]`, the keyboard latch (R127). -/
  keys : Vector Bool 16
  /-- The model's own: the input `now` of the coming step (R5, R135; log 5). -/
  now : Nat
  /-- The model's own: the input `rnd` of the coming step (R5, R135, R490; log 5). -/
  rnd : Byte
  /-- The model's own: the number of steps made (log 5); 0 is "before the first `step`" (R711; log 19). -/
  stepCount : Nat
  /-- The model's own: the render events emitted so far, newest first (R639, R640; log 20). -/
  renders : List Display
  deriving DecidableEq, Repr

/-- Why a step gives no next state. -/
inductive Fault where
  /-- Raised by `step` in mode Halted, and by nothing else: the machine has stopped for good, does nothing and returns the
  recorded fault again (R605). It carries the record. SAFE: nothing is claimed of a machine that has stopped. A fault that
  an instruction raises is not this: it is a next state, with mode Halted and the record written (R602; log 1). -/
  | halted (record : Option FaultRecord)
  deriving DecidableEq, Repr

/-- Why an operation is refused. -/
inductive Refusal where
  /-- Raised by `exec` for an instruction without a meaning; no arm of `exec` raises it. SAFE. -/
  | notModelled (mnemonic : String)
  /-- Raised by `load` after the first step or in mode Halted, to which the spec gives no meaning (R711, U15); no step raises
  it. SAFE. -/
  | loadOutsideBoot
  deriving DecidableEq, Repr

/-- The state after `construct(t0)` (R700) with `t0` the free constant `Config.constructTime` and the default font. Memory lists
nothing: an unlisted address reads as that `construct` leaves it. The model's own fields are those of log 6. -/
def State.reset : State where
  v := Vector.replicate 16 0#8
  pc := 0x200#16
  idx := 0#16
  sp := 0
  stack := Vector.replicate 16 0#16
  dt := 0#8
  st := 0#8
  lastTick := Config.constructTime
  mode := .running
  fault := none
  mem := []
  display := Vector.replicate 32 (Vector.replicate 64 false)
  keys := Vector.replicate 16 false
  now := Config.clockInput 0
  rnd := Config.randomInput 0
  stepCount := 0
  renders := []

end Sys2Proof.Machine
end

