-- ==== Sys2Proof/Machine/Memory.lean ====
section
/-! DEFINITION. Memory (R10, R125, R200 to R204): what an unlisted address reads as, one byte read and written, the range check,
the checked accesses `MemRead` and `MemWrite`, and the canonical form. -/

namespace Sys2Proof.Machine

/-- What an unlisted address reads as: the byte `construct` leaves there with the default font, which stands from FONT_BASE on, else
0x00 (R125, R700; log 7). The bytes in which another `FONT` differs are listed. -/
def Memory.initial (a : Nat) : Byte :=
  if a < Config.fontBase then 0#8 else (font[a - Config.fontBase]?).getD 0#8

/-- `M[a]`. An address above 0xFFF does not exist, and every access checks for it first (`firstBadAddress`). -/
def Memory.byte : Memory → Nat → Byte
  | [], a => initial a
  | (a', b') :: rest, a => if a = a' then b' else byte rest a

/-- The list with the pair (a, b) in front, which is left out where `b` is what the address reads as unlisted. -/
def Memory.listed (a : Nat) (b : Byte) (rest : Memory) : Memory :=
  if b = initial a then rest else (a, b) :: rest

/-- `M[a] <- b`, in the canonical form. -/
def Memory.write : Memory → Nat → Byte → Memory
  | [], a, b => listed a b []
  | (a', b') :: rest, a, b =>
    if a < a' then listed a b ((a', b') :: rest)
    else if a = a' then listed a b rest
    else (a', b') :: write rest a b

/-- Writes the bytes in order to rising addresses from `a` on. -/
def Memory.writeBytes : Memory → Nat → List Byte → Memory
  | m, _, [] => m
  | m, a, b :: bs => writeBytes (write m a b) (a + 1) bs

/-- The canonical form, entry by entry: each address is at least `lo`, lies in memory, rises strictly, and holds another byte than
it reads as unlisted. -/
def Memory.wfFrom : Nat → Memory → Bool
  | _, [] => true
  | lo, (a, b) :: rest =>
    decide (lo ≤ a) && decide (a < Config.memSize) && decide (b ≠ initial a) && wfFrom (a + 1) rest

/-- The canonical form of memory. -/
def Memory.wf (m : Memory) : Bool :=
  wfFrom 0 m

/-- The lowest of the `n` addresses from `a` on that is above 0xFFF (R10, R204; log 23). -/
def firstBadAddress (a n : Nat) : Option Nat :=
  ((List.range n).map (a + ·)).find? (fun k => decide (Config.memSize ≤ k))

/-- `MemRead(a, n)` as a list of bytes (R10), or the lowest address out of range. -/
def Memory.read (m : Memory) (a n : Nat) : Except Nat (List Byte) :=
  match firstBadAddress a n with
  | some bad => .error bad
  | none => .ok ((List.range n).map (fun k => m.byte (a + k)))

/-- `MemWrite` of the bytes at `a` (R10), or the lowest address out of range; the check comes before any write. -/
def Memory.store (m : Memory) (a : Nat) (bs : List Byte) : Except Nat Memory :=
  match firstBadAddress a bs.length with
  | some bad => .error bad
  | none => .ok (m.writeBytes a bs)

end Sys2Proof.Machine
end

