-- ==== Sys2Proof/Machine/Operands.lean ====
section
/-! DEFINITION. The operand forms (R303): registers, immediates and addresses extended with zeros, the block of registers V0 to
Vx, the decimal digits of a byte, the glyph address of a digit, a key of the latch by its number. -/

namespace Sys2Proof.Machine

/-- `V[r]` (R9, R100). -/
def State.getV (s : State) (r : Reg) : Byte := s.v[r.val]

/-- The index of `VF` (R101). -/
def regF : Reg := 15

/-- `zext_16(NNN)` (R303). -/
def zext16Addr (nnn : Addr12) : Word := nnn.setWidth 16

/-- `zext_16` of a register value (R303). -/
def zext16Byte (b : Byte) : Word := b.setWidth 16

/-- The registers V0 to Vx, both included, in order (R484). -/
def State.regsUpTo (s : State) (x : Reg) : List Byte := s.v.toList.take (x.val + 1)

/-- The decimal digits of a byte: hundreds, tens, ones (R483). -/
def bcdDigits (v : Byte) : List Byte :=
  [BitVec.ofNat 8 (v.toNat / 100), BitVec.ofNat 8 (v.toNat / 10 % 10), BitVec.ofNat 8 (v.toNat % 10)]

/-- The address of the glyph of a digit: `FONT_BASE + 5 * d` (R130, R482). -/
def glyphAddress (d : Nat) : Word := BitVec.ofNat 16 (Config.fontBase + Config.glyphSize * d)

/-- `K[k]`, or none for a number above 15 (R127, R424). -/
def State.key? (s : State) (k : Nat) : Option Bool := s.keys[k]?

/-- The lowest-indexed pressed key, or none if no key is pressed (R526). -/
def State.lowestPressed (s : State) : Option Nat := s.keys.toList.findIdx? id

end Sys2Proof.Machine
end

