-- ==== Sys2Proof/Machine/Ops.lean ====
section
/-! DEFINITION. The shared operations over the state: writing a register, moving the PC, taking a fault (R11, R602), the call
stack, fetching, the timer clock (R620), and taking up the inputs of the next step. -/

namespace Sys2Proof.Machine

/-- `V[r] <- b` (R9). -/
def State.setV (s : State) (r : Reg) (b : Byte) : State := { s with v := s.v.set r.val b }

/-- `V[x] <- r`, and then the flag `VF <- f` (R447; log 11). -/
def State.setVWithFlag (s : State) (x : Reg) (r f : Byte) : State := (s.setV x r).setV regF f

/-- `V[k] <- b` for the bytes in order from register `k` on (R486). -/
def State.setVsFrom (s : State) : Nat → List Byte → State
  | _, [] => s
  | k, b :: bs => setVsFrom { s with v := s.v.setIfInBounds k b } (k + 1) bs

/-- `PC <- target` (R9). -/
def State.setPc (s : State) (target : Word) : State := { s with pc := target }

/-- `PC <- PC + 2` (R104). -/
def State.advance (s : State) : State := s.setPc (s.pc + 2#16)

/-- The common skip rule: `PC <- PC + (if c then 4 else 2)` (R426). -/
def State.skipIf (s : State) (c : Bool) : State := s.setPc (s.pc + (if c then 4#16 else 2#16))

/-- `I <- a` (R9). -/
def State.setIdx (s : State) (a : Word) : State := { s with idx := a }

/-- `halt(kind, pc, opcode, info)` with `pc` the PC: TAKING A FAULT. The record is written, the mode becomes Halted, and nothing else
changes: no register, no PC, no memory, no render event (R602). There is no handler, no vector and no return (R604). -/
def State.halt (s : State) (kind : Cause) (opcode : Option Word) (info : Nat) : State :=
  { s with mode := .halted, fault := some { kind := kind, pc := s.pc, opcode := opcode, info := info } }

/-- `raise Fault(kind, info)` in the instruction `i` (R11, R300): the machine halts, with the instruction's own word as the record's
opcode (log 2). It is a next state (log 1). -/
def raise (i : Instr) (kind : Cause) (info : Nat) (s : State) : Host.Outcome State Fault Refusal :=
  .next (s.halt kind (some (encode i)) info)

/-- `S[SP] <- a; SP <- SP + 1`, or none with SP = 16 (R403). -/
def State.push? (s : State) (a : Word) : Option State :=
  if h : s.sp.val < 16 then some { s with stack := s.stack.set s.sp.val a, sp := ⟨s.sp.val + 1, Nat.succ_lt_succ h⟩ } else none

/-- `SP <- SP - 1`, and the entry then at `S[SP]`, which stays where it is; or none with SP = 0 (R401, R107). -/
def State.pop? (s : State) : Option (Word × State) :=
  if h : 0 < s.sp.val then
    some (s.stack[s.sp.val - 1]'(by omega), { s with sp := ⟨s.sp.val - 1, by omega⟩ })
  else none

/-- The fetch: the big-endian word at PC and PC + 1, or the lowest of the two addresses that is above 0xFFF (R202, R300). -/
def State.fetch (s : State) : Except Nat Word :=
  match s.mem.read s.pc.toNat 2 with
  | .error bad => .error bad
  | .ok bytes => .ok (wordOfBytes (bytes[0]?.getD 0#8) (bytes[1]?.getD 0#8))

/-- The time since the last decrement, 0 for a clock that went back (R620; log 4). -/
def elapsedTime (now lastTick : Nat) : Nat := if lastTick ≤ now then now - lastTick else 0

/-- A decrement is due: the elapsed time meets or exceeds the period (R620, R622). -/
def tickDue (period now lastTick : Nat) : Bool := decide (period ≤ elapsedTime now lastTick)

/-- A timer drops by 1 when a decrement is due, and stays at 0 (R620). -/
def decayTimer (due : Bool) (t : Byte) : Byte := if t = 0#8 then 0#8 else if due then t - 1#8 else t

/-- `TimerTick(now)` with `TIMER_PERIOD` the period (R620): both timers and `last_tick`. -/
def State.timerTick (s : State) (period now : Nat) : State :=
  { s with
    dt := decayTimer (tickDue period now s.lastTick) s.dt
    st := decayTimer (tickDue period now s.lastTick) s.st
    lastTick := if tickDue period now s.lastTick then now else s.lastTick }

/-- `emit RenderEvent(copy of D)`, into the history (R639; log 20). -/
def State.emitRender (s : State) : State := { s with renders := s.display :: s.renders }

/-- The step is over: it is counted, and the next step's inputs `now` and `rnd` are free values (log 5). -/
def State.nextInputs (s : State) : State :=
  { s with
    now := Config.clockInput (s.stepCount + 1)
    rnd := Config.randomInput (s.stepCount + 1)
    stepCount := s.stepCount + 1 }

end Sys2Proof.Machine
end

