-- ==== Sys2Proof/Machine/ControlFlow.lean ====
section
/-! DEFINITION. Control flow (spec/40_control_flow.md): CLS, RET, JP, CALL, JP V0. -/

namespace Sys2Proof.Machine

/-- A display with every pixel unset (R400). -/
def blankDisplay : Display := Vector.replicate 32 (Vector.replicate 64 false)

/-- `00E0` CLS (R400). It emits no render event (R639). -/
def execCls (s : State) : Host.Outcome State Fault Refusal :=
  .next { s with display := blankDisplay }.advance

/-- `00EE` RET: `PC <- S[SP] + 2` after the pop (R401; C2). -/
def execRet (s : State) : Host.Outcome State Fault Refusal :=
  match s.pop? with
  | none => raise .ret .stackUnderflow 0 s
  | some (entry, t) => .next (t.setPc (entry + 2#16))

/-- `1NNN` JP addr (R402). -/
def execJp (nnn : Addr12) (s : State) : Host.Outcome State Fault Refusal :=
  .next (s.setPc (zext16Addr nnn))

/-- `2NNN` CALL addr: the CALL's own address is pushed (R403; C2). -/
def execCall (nnn : Addr12) (s : State) : Host.Outcome State Fault Refusal :=
  match s.push? s.pc with
  | none => raise (.call nnn) .stackOverflow 16 s
  | some t => .next (t.setPc (zext16Addr nnn))

/-- `BNNN` JP V0, addr: `PC <- zext_16(NNN) + zext_16(V[0])` (R404). -/
def execJpV0 (nnn : Addr12) (s : State) : Host.Outcome State Fault Refusal :=
  .next (s.setPc (zext16Addr nnn + zext16Byte (s.getV 0)))

end Sys2Proof.Machine
end

