-- ==== Sys2Proof/Machine/MemoryIndex.lean ====
section
/-! DEFINITION. Memory and index-register instructions (spec/43_memory_index.md). Every range is checked before any write (R204). -/

namespace Sys2Proof.Machine

/-- `ANNN` LD I, addr (R480). -/
def execLdI (nnn : Addr12) (s : State) : Host.Outcome State Fault Refusal :=
  .next (s.setIdx (zext16Addr nnn)).advance

/-- `FX1E` ADD I, Vx: a sum above 0xFFFF faults, a sum above 0xFFF does not (R481; log 14). -/
def execAddI (x : Reg) (s : State) : Host.Outcome State Fault Refusal :=
  if s.idx.toNat + (s.getV x).toNat > 0xFFFF then
    raise (.addI x) .addressOutOfRange (s.idx.toNat + (s.getV x).toNat) s
  else .next (s.setIdx (s.idx + zext16Byte (s.getV x))).advance

/-- `FX29` LD F, Vx: a value above 15 faults (R482). -/
def execLdF (x : Reg) (s : State) : Host.Outcome State Fault Refusal :=
  if (s.getV x).toNat > 15 then raise (.ldF x) .addressOutOfRange (s.getV x).toNat s
  else .next (s.setIdx (glyphAddress (s.getV x).toNat)).advance

/-- `FX33` LD B, Vx: three decimal digits at I; I stays (R483; log 17). -/
def execLdB (x : Reg) (s : State) : Host.Outcome State Fault Refusal :=
  match s.mem.store s.idx.toNat (bcdDigits (s.getV x)) with
  | .error bad => raise (.ldB x) .addressOutOfRange bad s
  | .ok m => .next { s with mem := m }.advance

/-- `FX55` LD [I], Vx: V0 to Vx to memory at I, and I past the last byte (R484, R485). -/
def execStRegs (x : Reg) (s : State) : Host.Outcome State Fault Refusal :=
  match s.mem.store s.idx.toNat (s.regsUpTo x) with
  | .error bad => raise (.stRegs x) .addressOutOfRange bad s
  | .ok m => .next ({ s with mem := m }.setIdx (s.idx + BitVec.ofNat 16 (x.val + 1))).advance

/-- `FX65` LD Vx, [I]: V0 to Vx from memory at I, and I past the last byte (R486, R485). -/
def execLdRegs (x : Reg) (s : State) : Host.Outcome State Fault Refusal :=
  match s.mem.read s.idx.toNat (x.val + 1) with
  | .error bad => raise (.ldRegs x) .addressOutOfRange bad s
  | .ok bytes => .next ((s.setVsFrom 0 bytes).setIdx (s.idx + BitVec.ofNat 16 (x.val + 1))).advance

end Sys2Proof.Machine
end

