-- ==== Sys2Proof/Machine/Random.lean ====
section
/-! DEFINITION. The random number instruction (spec/44_random.md). -/

namespace Sys2Proof.Machine

/-- `CXNN` RND Vx, byte: `V[X] <- rnd AND NN`, with `rnd` the free draw of this step (R490; log 5). -/
def execRnd (x : Reg) (nn : Byte) (s : State) : Host.Outcome State Fault Refusal :=
  .next (s.setV x (s.rnd &&& nn)).advance

end Sys2Proof.Machine
end

