-- ==== Sys2Proof/Machine/RegisterOps.lean ====
section
/-! DEFINITION. Register operations (spec/42_register_ops.md). Operands are read from the state before the instruction; where a
flag is written, it is written last (R447; log 11). -/

namespace Sys2Proof.Machine

/-- `6XNN` LD Vx, byte (R440). -/
def execLdByte (x : Reg) (nn : Byte) (s : State) : Host.Outcome State Fault Refusal :=
  .next (s.setV x nn).advance

/-- `7XNN` ADD Vx, byte, without a flag (R441). -/
def execAddByte (x : Reg) (nn : Byte) (s : State) : Host.Outcome State Fault Refusal :=
  .next (s.setV x (addBytes (s.getV x) nn)).advance

/-- `8XY0` LD Vx, Vy (R442). -/
def execLdReg (x y : Reg) (s : State) : Host.Outcome State Fault Refusal :=
  .next (s.setV x (s.getV y)).advance

/-- `8XY1` OR Vx, Vy; no flag (R443; log 13). -/
def execOrReg (x y : Reg) (s : State) : Host.Outcome State Fault Refusal :=
  .next (s.setV x (s.getV x ||| s.getV y)).advance

/-- `8XY2` AND Vx, Vy; no flag (R444; log 13). -/
def execAndReg (x y : Reg) (s : State) : Host.Outcome State Fault Refusal :=
  .next (s.setV x (s.getV x &&& s.getV y)).advance

/-- `8XY3` XOR Vx, Vy; no flag (R445; log 13). -/
def execXorReg (x y : Reg) (s : State) : Host.Outcome State Fault Refusal :=
  .next (s.setV x (s.getV x ^^^ s.getV y)).advance

/-- `8XY4` ADD Vx, Vy, with the carry in VF (R448). -/
def execAddReg (x y : Reg) (s : State) : Host.Outcome State Fault Refusal :=
  .next (s.setVWithFlag x (addBytes (s.getV x) (s.getV y)) (carryFlag (s.getV x) (s.getV y))).advance

/-- `8XY5` SUB Vx, Vy: Vx - Vy, with the borrow in VF (R449; C7). -/
def execSubReg (x y : Reg) (s : State) : Host.Outcome State Fault Refusal :=
  .next (s.setVWithFlag x (subBytes (s.getV x) (s.getV y)) (borrowFlag (s.getV x) (s.getV y))).advance

/-- `8XY6` SHR Vx, Vy: Vy shifted right by 1 into Vx, its low bit in VF (R450; log 12). -/
def execShrReg (x y : Reg) (s : State) : Host.Outcome State Fault Refusal :=
  .next (s.setVWithFlag x (shrByte (s.getV y)) (shrFlag (s.getV y))).advance

/-- `8XY7` SUBN Vx, Vy: Vy - Vx into Vx, with the borrow in VF (R451; C7). -/
def execSubnReg (x y : Reg) (s : State) : Host.Outcome State Fault Refusal :=
  .next (s.setVWithFlag x (subBytes (s.getV y) (s.getV x)) (borrowFlag (s.getV y) (s.getV x))).advance

/-- `8XYE` SHL Vx, Vy: Vy shifted left by 1 into Vx, its raw masked high bit in VF (R452; C1, log 12). -/
def execShlReg (x y : Reg) (s : State) : Host.Outcome State Fault Refusal :=
  .next (s.setVWithFlag x (shlByte (s.getV y)) (shlFlag (s.getV y))).advance

end Sys2Proof.Machine
end

