-- ==== Sys2Proof/Machine/Skips.lean ====
section
/-! DEFINITION. Conditional skips (spec/41_skips.md), each a condition and the common skip rule R426. -/

namespace Sys2Proof.Machine

/-- `3XNN` SE Vx, byte (R420). -/
def execSeByte (x : Reg) (nn : Byte) (s : State) : Host.Outcome State Fault Refusal :=
  .next (s.skipIf (s.getV x == nn))

/-- `4XNN` SNE Vx, byte (R421). -/
def execSneByte (x : Reg) (nn : Byte) (s : State) : Host.Outcome State Fault Refusal :=
  .next (s.skipIf (s.getV x != nn))

/-- `5XY0` SE Vx, Vy (R422). -/
def execSeReg (x y : Reg) (s : State) : Host.Outcome State Fault Refusal :=
  .next (s.skipIf (s.getV x == s.getV y))

/-- `9XY0` SNE Vx, Vy (R423). -/
def execSneReg (x y : Reg) (s : State) : Host.Outcome State Fault Refusal :=
  .next (s.skipIf (s.getV x != s.getV y))

/-- `EX9E` SKP Vx; a key index above 15 faults (R424; log 15). -/
def execSkp (x : Reg) (s : State) : Host.Outcome State Fault Refusal :=
  match s.key? (s.getV x).toNat with
  | none => raise (.skp x) .invalidKeyIndex (s.getV x).toNat s
  | some pressed => .next (s.skipIf pressed)

/-- `EXA1` SKNP Vx; a key index above 15 faults (R425; log 15). -/
def execSknp (x : Reg) (s : State) : Host.Outcome State Fault Refusal :=
  match s.key? (s.getV x).toNat with
  | none => raise (.sknp x) .invalidKeyIndex (s.getV x).toNat s
  | some pressed => .next (s.skipIf (!pressed))

end Sys2Proof.Machine
end

