-- ==== Sys2Proof/Machine/SpriteDraw.lean ====
section
/-! DEFINITION. Sprite draw and collision (spec/45_sprite_draw.md), as the loop of R500 over rows and columns. -/

namespace Sys2Proof.Machine

/-- `D[row][col]` (R9, R126). -/
def Display.pixel (d : Display) (row : Fin 32) (col : Fin 64) : Bool := d[row.val][col.val]

/-- `D[row][col] <- b` (R9). -/
def Display.setPixel (d : Display) (row : Fin 32) (col : Fin 64) (b : Bool) : Display :=
  d.set row.val (d[row.val].set col.val b)

/-- Element `row*64+col` of the row-major snapshot (R126, R501). -/
def Display.element (d : Display) (k : Nat) : Bool := pixel d (Fin.ofNat 32 (k / 64)) (Fin.ofNat 64 k)

/-- A display and whether a pixel has gone from set to unset (the variable `hit` of R500). -/
abbrev Drawing := Display × Bool

/-- One pixel of the loop: a 1 bit flips it, and hits if it was set (R500). -/
def plotBit (bit : Bool) (row : Fin 32) (col : Fin 64) (p : Drawing) : Drawing :=
  (p.1.setPixel row col (p.1.pixel row col ^^ bit), p.2 || (bit && p.1.pixel row col))

/-- Bit `7 - c` of a sprite byte is its column `c`; bit 7 is the leftmost (R500; log 16). -/
def spriteBit (b : Byte) (c : Nat) : Bool := b.getLsbD (7 - c)

/-- One row of the loop: 8 columns from `x0` on, each modulo 64 (R500; C9). -/
def drawRow (b : Byte) (row : Fin 32) (x0 : Nat) (p : Drawing) : Drawing :=
  (List.range 8).foldl (fun q c => plotBit (spriteBit b c) row (Fin.ofNat 64 (x0 + c)) q) p

/-- The loop over the sprite's bytes: one row each from `y` on, each modulo 32 (R500; C9). -/
def drawRows (x0 : Nat) : Nat → List Byte → Drawing → Drawing
  | _, [], p => p
  | y, b :: bs, p => drawRows x0 (y + 1) bs (drawRow b (Fin.ofNat 32 y) x0 p)

/-- `DXYN` DRW Vx, Vy, nibble: the coordinates are read before VF is written; N = 0 reads nothing and draws nothing (R500; log 16). -/
def execDrw (x y : Reg) (n : Fin 16) (s : State) : Host.Outcome State Fault Refusal :=
  match s.mem.read s.idx.toNat n.val with
  | .error bad => raise (.drw x y n) .addressOutOfRange bad s
  | .ok bytes =>
    let drawn := drawRows (s.getV x).toNat (s.getV y).toNat bytes (s.display, false)
    .next (({ s with display := drawn.1 }.setV regF (collisionFlag drawn.2)).advance.emitRender)

end Sys2Proof.Machine
end

