-- ==== Sys2Proof/Machine/TimersKeys.lean ====
section
/-! DEFINITION. Timer and key instructions (spec/46_timers_keys.md). The timer clock has run before them in the same step (R520). -/

namespace Sys2Proof.Machine

/-- `FX07` LD Vx, DT (R521). -/
def execLdVxDT (x : Reg) (s : State) : Host.Outcome State Fault Refusal :=
  .next (s.setV x s.dt).advance

/-- `FX15` LD DT, Vx (R522). -/
def execLdDTVx (x : Reg) (s : State) : Host.Outcome State Fault Refusal :=
  .next { s with dt := s.getV x }.advance

/-- `FX18` LD ST, Vx (R523). -/
def execLdSTVx (x : Reg) (s : State) : Host.Outcome State Fault Refusal :=
  .next { s with st := s.getV x }.advance

/-- `FX0A` LD Vx, K: the lowest pressed key, or the wait with PC in place (R526, R527; log 24). -/
def execLdVxK (x : Reg) (s : State) : Host.Outcome State Fault Refusal :=
  match s.lowestPressed with
  | some k => .next { s.setV x (BitVec.ofNat 8 k) with mode := .running }.advance
  | none => .next { s with mode := .awaitingKey }

end Sys2Proof.Machine
end

