-- ==== Sys2Proof/Machine/Cycle.lean ====
section
/-! DEFINITION. The body of `step` (R300) after the test for Halted, and the placing of a word where the next fetch reads it. -/

namespace Sys2Proof.Machine

/-- Fetch, decode and execute, after the timer clock: a fetch out of range or an unknown word halts (R300, R606). -/
def fetchDecodeExecute (s : State) : Host.Outcome State Fault Refusal :=
  match s.fetch with
  | .error bad => .next (s.halt .addressOutOfRange none bad)
  | .ok w =>
    match decodeWord w with
    | none => .next (s.halt .unknownOpcode (some w) w.toNat)
    | some i => exec i s

/-- A step that ends in a next state takes up the inputs of the one after it (log 5). -/
def takeNextInputs : Host.Outcome State Fault Refusal → Host.Outcome State Fault Refusal
  | .next t => .next t.nextInputs
  | .fault f => .fault f
  | .refused r => .refused r

/-- One call of `step(now, rnd)` with the inputs that stand in the state (R300): in mode Halted it does nothing and answers with
the recorded fault (R605); else the timer clock (R620), then fetch, decode, execute, and the inputs of the next step. -/
def stepBody (s : State) : Host.Outcome State Fault Refusal :=
  match s.mode with
  | .halted => .fault (.halted s.fault)
  | .running => takeNextInputs (fetchDecodeExecute (s.timerTick Config.timerPeriod s.now))
  | .awaitingKey => takeNextInputs (fetchDecodeExecute (s.timerTick Config.timerPeriod s.now))

/-- The word stored big-endian at PC and PC + 1, where the next step fetches; nothing where the fetch would fault (R202, R300). -/
def State.placeWord (s : State) (w : Word) : State :=
  match s.mem.store s.pc.toNat (bytesOfWord w) with
  | .error _ => s
  | .ok m => { s with mem := m }

end Sys2Proof.Machine
end

