-- ==== Sys2Proof/Machine/Step.lean ====
section
/-! DEFINITION. The step function and the placing of an opcode-table word under its next fetch. -/

namespace Sys2Proof.Machine

/-- One step of the block (R300). -/
def step (s : State) : Host.Outcome State Fault Refusal := stepBody s

/-- The state with the opcode-table word `w` of `nbits` bits stored at PC, big-endian (R202): in a state that is not Halted and whose
PC is at most 0xFFE, the very next step runs it. It stands for the program a host loads from outside (log 19). -/
def State.withFetchWord (s : State) (nbits w : Nat) : State :=
  s.placeWord (BitVec.ofNat 16 (w % 2 ^ nbits))

end Sys2Proof.Machine
end

