-- ==== Sys2Proof/Machine/Block.lean ====
section
/-! DEFINITION. The block's operations toward the host (R5, R641): construct, load, step with its inputs and its reply, setKey,
clearAllKeys, shouldPlaySound, and the runs a host can make of them. They act between steps only (R211, R720). -/

namespace Sys2Proof.Machine

/-- `construct(t0)` with the parameter `FONT`, whose default is the font of R131: its 80 bytes stand from FONT_BASE on (R7, R131, R700;
log 8). -/
def construct (t0 : Nat) (fontTable : FontTable := defaultFont) : State :=
  { State.reset with lastTick := t0, mem := Memory.writeBytes [] Config.fontBase fontTable.toList }

/-- What `load` returns (R710). -/
inductive LoadReply where
  | ok
  /-- `RomTooLarge`, with the length (R600, R607). -/
  | romTooLarge (len : Nat)
  deriving DecidableEq, Repr

/-- `load(bytes)` (R710): before the first step only (R711); a ROM above 3232 bytes writes nothing (R607). -/
def load (bytes : List Byte) (s : State) : Host.Outcome (LoadReply × State) Fault Refusal :=
  if s.mode = .halted ∨ s.stepCount ≠ 0 then .refused .loadOutsideBoot
  else if bytes.length > Config.romMax then .next (.romTooLarge bytes.length, s)
  else .next (.ok, { s with mem := s.mem.writeBytes Config.programStart bytes })

/-- What `step` returns to the driver (R300). -/
inductive StepReply where
  | ok
  | fault (record : Option FaultRecord)
  deriving DecidableEq, Repr

/-- The state with the inputs of the coming step set by the host (R5). -/
def State.withInputs (s : State) (now : Nat) (rnd : Byte) : State := { s with now := now, rnd := rnd }

/-- `step(now, rnd)` with its reply (R300): `Ok`, or the fault record; a Halted machine returns its record and stays (R605). -/
def stepWith (now : Nat) (rnd : Byte) (s : State) : StepReply × State :=
  match step (s.withInputs now rnd) with
  | .next t => (match t.fault with | none => .ok | some r => .fault (some r), t)
  | .fault (.halted r) => (.fault r, s)
  | .refused _ => (.fault s.fault, s)

/-- `setKey(k, pressed)` (R632): an index above 15 halts the machine (log 18); a Halted machine ignores it (R605). -/
def setKey (k : Nat) (pressed : Bool) (s : State) : State :=
  if s.mode = .halted then s
  else if h : k < 16 then { s with keys := s.keys.set k pressed }
  else s.halt .invalidKeyIndex none k

/-- `clearAllKeys()` (R633); a Halted machine ignores it (R605). -/
def clearAllKeys (s : State) : State :=
  if s.mode = .halted then s else { s with keys := Vector.replicate 16 false }

/-- `shouldPlaySound()`: `ST > 1` (R637). -/
def shouldPlaySound (s : State) : Bool := decide (s.st.toNat > 1)

/-- The numeric fault codes (R600; log 23). -/
def Cause.code : Cause → Nat
  | .romTooLarge => 1
  | .stackOverflow => 2
  | .stackUnderflow => 3
  | .unknownOpcode => 4
  | .addressOutOfRange => 5
  | .invalidKeyIndex => 6

/-- A host operation that can change the state (R641). -/
inductive HostOp where
  | load (bytes : List Byte)
  | step (now : Nat) (rnd : Byte)
  | setKey (k : Nat) (pressed : Bool)
  | clearAllKeys
  deriving DecidableEq, Repr

/-- The state after a host operation; a refused `load` leaves it (R711). -/
def HostOp.apply : HostOp → State → State
  | .load bytes, s => match Sys2Proof.Machine.load bytes s with
    | .next (_, t) => t
    | .fault _ => s
    | .refused _ => s
  | .step now rnd, s => (stepWith now rnd s).2
  | .setKey k pressed, s => Sys2Proof.Machine.setKey k pressed s
  | .clearAllKeys, s => Sys2Proof.Machine.clearAllKeys s

/-- The state after `construct(t0)` with a font and a sequence of host operations, the first of the list first (R712, R720). -/
def runHost (t0 : Nat) (fontTable : FontTable) (ops : List HostOp) : State :=
  ops.foldl (fun s op => op.apply s) (construct t0 fontTable)

end Sys2Proof.Machine
end

