-- ==== Sys2Proof/Safety.lean ====
section
/-! DEFINITION. What counts as a safe run, in the terms the claims use: the invariant of the block, when an instruction faults and
with what (R600, R606), where it leaves the PC (R104), which registers it may write (R101, R102), and how two states differ. -/

namespace Sys2Proof.Machine

/-! ## The invariant -/

/-- Halted exactly with a fault recorded; the record's PC is the PC, and its cause is a machine fault (R120, R121, R603, R607). -/
def State.FaultRecorded (s : State) : Prop :=
  (s.mode = .halted → ∃ r, s.fault = some r ∧ r.pc = s.pc ∧ r.kind ≠ .romTooLarge) ∧ (s.mode ≠ .halted → s.fault = none)

/-- The PC is at most 0x10FE (R105). -/
def State.PcBounded (s : State) : Prop := s.pc.toNat ≤ 0x10FE

/-- Every occupied stack entry is the address of a fetched CALL, so at most 0xFFE (R401). -/
def State.ReturnsBounded (s : State) : Prop :=
  ∀ k, (h : k < 16) → k < s.sp.val → (s.stack[k]).toNat ≤ 0xFFE

/-- In mode AwaitingKey a step has been made, and the word at PC is the `FX0A` that waits (R120, R527). -/
def State.WaitsAtKeyWait (s : State) : Prop :=
  s.mode = .awaitingKey → s.stepCount ≠ 0 ∧ ∃ w x, s.fetch = .ok w ∧ decodeWord w = some (.ldVxK x)

/-- The invariant of the block. -/
def State.Inv (s : State) : Prop :=
  s.mem.wf = true ∧ s.FaultRecorded ∧ s.PcBounded ∧ s.ReturnsBounded ∧ s.WaitsAtKeyWait

/-! ## Faults -/

/-- A range of `n` bytes from `a` on: none where it lies within 0x000 to 0xFFF, else the cause and the lowest bad address (R204). -/
def rangeFault (a n : Nat) : Option (Cause × Nat) :=
  if n = 0 ∨ a + n ≤ 0x1000 then none else some (.addressOutOfRange, max a 0x1000)

/-- The fault an instruction raises in a state, with its cause and info, or none (the table of R600, R606). -/
def faultOf (i : Instr) (s : State) : Option (Cause × Nat) :=
  match i with
  | .ret => if s.sp = 0 then some (.stackUnderflow, 0) else none
  | .call _ => if s.sp = 16 then some (.stackOverflow, 16) else none
  | .skp x | .sknp x => if (s.getV x).toNat > 15 then some (.invalidKeyIndex, (s.getV x).toNat) else none
  | .addI x =>
    if s.idx.toNat + (s.getV x).toNat > 0xFFFF then some (.addressOutOfRange, s.idx.toNat + (s.getV x).toNat) else none
  | .ldF x => if (s.getV x).toNat > 15 then some (.addressOutOfRange, (s.getV x).toNat) else none
  | .ldB _ => rangeFault s.idx.toNat 3
  | .stRegs x | .ldRegs x => rangeFault s.idx.toNat (x.val + 1)
  | .drw _ _ n => rangeFault s.idx.toNat n.val
  | .cls | .jp _ | .seByte _ _ | .sneByte _ _ | .seReg _ _ | .ldByte _ _ | .addByte _ _ | .ldReg _ _ => none
  | .orReg _ _ | .andReg _ _ | .xorReg _ _ | .addReg _ _ | .subReg _ _ | .shrReg _ _ | .subnReg _ _ | .shlReg _ _ => none
  | .sneReg _ _ | .ldI _ | .jpV0 _ | .rnd _ _ | .ldVxDT _ | .ldVxK _ | .ldDTVx _ | .ldSTVx _ => none

/-! ## The PC -/

/-- The condition of a conditional skip, for the six that skip (R420 to R425). -/
def skipCondition (i : Instr) (s : State) : Option Prop :=
  match i with
  | .seByte x nn => some (s.getV x = nn)
  | .sneByte x nn => some (s.getV x ≠ nn)
  | .seReg x y => some (s.getV x = s.getV y)
  | .sneReg x y => some (s.getV x ≠ s.getV y)
  | .skp x => some (s.key? (s.getV x).toNat = some true)
  | .sknp x => some (s.key? (s.getV x).toNat = some false)
  | _ => none

/-! ## The opcode map -/

/-- The rows of the opcode map R304: mask, match, and the instruction with the fields its pattern names. -/
def opcodeMap : List (Word × Word × (Word → Instr)) :=
  [(0xFFFF, 0x00E0, fun _ => .cls), (0xFFFF, 0x00EE, fun _ => .ret),
   (0xF000, 0x1000, fun w => .jp (fieldNNN w)), (0xF000, 0x2000, fun w => .call (fieldNNN w)),
   (0xF000, 0x3000, fun w => .seByte (fieldX w) (fieldNN w)), (0xF000, 0x4000, fun w => .sneByte (fieldX w) (fieldNN w)),
   (0xF00F, 0x5000, fun w => .seReg (fieldX w) (fieldY w)), (0xF000, 0x6000, fun w => .ldByte (fieldX w) (fieldNN w)),
   (0xF000, 0x7000, fun w => .addByte (fieldX w) (fieldNN w))] ++
  [(0xF00F, 0x8000, fun w => .ldReg (fieldX w) (fieldY w)), (0xF00F, 0x8001, fun w => .orReg (fieldX w) (fieldY w)),
   (0xF00F, 0x8002, fun w => .andReg (fieldX w) (fieldY w)), (0xF00F, 0x8003, fun w => .xorReg (fieldX w) (fieldY w)),
   (0xF00F, 0x8004, fun w => .addReg (fieldX w) (fieldY w)), (0xF00F, 0x8005, fun w => .subReg (fieldX w) (fieldY w)),
   (0xF00F, 0x8006, fun w => .shrReg (fieldX w) (fieldY w)), (0xF00F, 0x8007, fun w => .subnReg (fieldX w) (fieldY w)),
   (0xF00F, 0x800E, fun w => .shlReg (fieldX w) (fieldY w)), (0xF00F, 0x9000, fun w => .sneReg (fieldX w) (fieldY w))] ++
  [(0xF000, 0xA000, fun w => .ldI (fieldNNN w)), (0xF000, 0xB000, fun w => .jpV0 (fieldNNN w)),
   (0xF000, 0xC000, fun w => .rnd (fieldX w) (fieldNN w)), (0xF000, 0xD000, fun w => .drw (fieldX w) (fieldY w) (fieldN w)),
   (0xF0FF, 0xE09E, fun w => .skp (fieldX w)), (0xF0FF, 0xE0A1, fun w => .sknp (fieldX w))] ++
  [(0xF0FF, 0xF007, fun w => .ldVxDT (fieldX w)), (0xF0FF, 0xF00A, fun w => .ldVxK (fieldX w)),
   (0xF0FF, 0xF015, fun w => .ldDTVx (fieldX w)), (0xF0FF, 0xF018, fun w => .ldSTVx (fieldX w)),
   (0xF0FF, 0xF01E, fun w => .addI (fieldX w)), (0xF0FF, 0xF029, fun w => .ldF (fieldX w)),
   (0xF0FF, 0xF033, fun w => .ldB (fieldX w)), (0xF0FF, 0xF055, fun w => .stRegs (fieldX w)),
   (0xF0FF, 0xF065, fun w => .ldRegs (fieldX w))]

/-! ## Registers -/

/-- The registers an instruction may write: its destination `Vx`, `V0` to `Vx`, and `VF` as a flag (R101, R102). -/
def writesReg (i : Instr) (r : Reg) : Bool :=
  match i with
  | .ldByte x _ | .addByte x _ | .ldReg x _ | .orReg x _ | .andReg x _ | .xorReg x _ | .rnd x _ => r == x
  | .ldVxDT x | .ldVxK x => r == x
  | .addReg x _ | .subReg x _ | .shrReg x _ | .subnReg x _ | .shlReg x _ => r == x || r == regF
  | .drw _ _ _ => r == regF
  | .ldRegs x => decide (r.val ≤ x.val)
  | .cls | .ret | .jp _ | .call _ | .seByte _ _ | .sneByte _ _ | .seReg _ _ | .sneReg _ _ | .ldI _ | .jpV0 _ => false
  | .skp _ | .sknp _ | .ldDTVx _ | .ldSTVx _ | .addI _ | .ldF _ | .ldB _ | .stRegs _ => false

/-! ## How two states differ -/

/-- From `s` to `t` register `x` takes the byte `b`, PC moves on by 2, and nothing else changes. -/
def WritesReg (s t : State) (x : Reg) (b : Byte) : Prop :=
  t.getV x = b ∧ (∀ r, r ≠ x → t.getV r = s.getV r) ∧ t.pc = s.pc + 2#16 ∧ t = { s with v := t.v, pc := t.pc }

/-- From `s` to `t` register `x` takes the byte `b`, then `VF` the flag `f`, PC moves on by 2, and nothing else changes. -/
def WritesRegAndFlag (s t : State) (x : Reg) (b f : Byte) : Prop :=
  t.getV regF = f ∧ (x ≠ regF → t.getV x = b) ∧ (∀ r, r ≠ x → r ≠ regF → t.getV r = s.getV r) ∧
    t.pc = s.pc + 2#16 ∧ t = { s with v := t.v, pc := t.pc }

/-- From `s` to `t` only the PC changes, to `a`. -/
def MovesPc (s t : State) (a : Word) : Prop := t = { s with pc := a }

/-- Pixel (row, col) lies under a 1 bit of the sprite of `n` bytes at `a` drawn from (x0, y0) on, the coordinates modulo 64 and 32
(R500). -/
def SpriteCovers (m : Memory) (a n x0 y0 : Nat) (row : Fin 32) (col : Fin 64) : Prop :=
  ∃ r c, r < n ∧ c < 8 ∧ row.val = (y0 + r) % 32 ∧ col.val = (x0 + c) % 64 ∧ (m.byte (a + r)).getLsbD (7 - c) = true

end Sys2Proof.Machine
end

