-- ==== Sys2Proof/Certificates/Slice0/Obligations.lean ====
section
/-! DEFINITION. The statements for the provers. Each docstring names the rule or section of spec/ it formalises, and where it rests on
a decision the spec marks as its own (D<n>) or on a choice of the model, the entry of notes/assumptions/ ("log <n>"). In every
statement "nothing else changes" is the equation of the next state with the old one but for the fields named, so that it covers
every register, every timer, every byte of memory, the display, the latch, the mode and the fault record. -/

open Sys2Proof
open Sys2Proof.Machine

/-! ## Encoding -/

/-- The decoder reads every instruction back from the word the encoder gives it, and from that word's two bytes at the front of any
bytes (30_encoding.md sections 2 and 3; the patterns are general knowledge, D1, log 9). -/
def Obligations.DecodeInvertsEncode : Prop :=
  ∀ i : Instr, decodeWord (encode i) = some i ∧ ∀ rest, decode (bytesOfWord (encode i) ++ rest) = .ok (i, rest)

/-- No two words decode to one instruction: the word a decoded instruction encodes to is the word it was decoded from. So the opcode
the model writes into a fault record is the word fetched (log 2). -/
def Obligations.EncodeInvertsDecode : Prop :=
  ∀ (w : Word) (i : Instr), decodeWord w = some i → encode i = w

/-- The decoder is the opcode map: a word decodes to an instruction exactly where some row's mask and match select it, with the fields
of the row's pattern; and the rows are disjoint (30_encoding.md section 3; D1, D2, log 9, log 10). -/
def Obligations.DecodeIsOpcodeMap : Prop :=
  (∀ (w : Word) (i : Instr), decodeWord w = some i ↔ ∃ row ∈ opcodeMap, w &&& row.1 = row.2.1 ∧ row.2.2 w = i) ∧
    ∀ w : Word, opcodeMap.Pairwise fun a b => ¬ (w &&& a.1 = a.2.1 ∧ w &&& b.1 = b.2.1)

/-- Words written out from the spec decode to the instructions they stand for: 00E0 (95_test_vectors.md L1-2), 2238 and 00EE (L1-3), 8455
(L1-6), D125 (L1-7), 0000, 5120 and 8008 (L2-E), FA33 (program P2). The patterns but 00E0, 00EE and 2NNN are general knowledge (D1,
log 9); that 8008 is refused is the spec's own choice (D2, log 10). -/
def Obligations.SpecWordsDecode : Prop :=
  decodeWord 0x00E0#16 = some .cls ∧ decodeWord 0x00EE#16 = some .ret ∧ decodeWord 0x2238#16 = some (.call 0x238#12) ∧
    decodeWord 0x5120#16 = some (.seReg 1 2) ∧ decodeWord 0x8455#16 = some (.subReg 4 5) ∧
    decodeWord 0xFA33#16 = some (.ldB 0xA) ∧ decodeWord 0xD125#16 = some (.drw 1 2 5) ∧
    decodeWord 0x0000#16 = none ∧ decodeWord 0x8008#16 = none

/-! ## The step -/

/-- A step runs the decoded instruction: where the bytes at PC and PC + 1 decode to `i`, the step is the timer clock, then `exec i`, then
the taking up of the next step's inputs, which is the model's own (30_encoding.md section 1; log 5). -/
def Obligations.StepRunsDecodedInstruction : Prop :=
  ∀ (s : State) (i : Instr), s.mode ≠ .halted → s.pc.toNat ≤ 0xFFE →
    decodeWord (wordOfBytes (s.mem.byte s.pc.toNat) (s.mem.byte (s.pc.toNat + 1))) = some i →
    ∃ t, exec i (s.timerTick Config.timerPeriod s.now) = .next t ∧ step s = .next t.nextInputs

/-- A fetch that would read past 0xFFF halts with AddressOutOfRange, no opcode, and the lowest bad address (30_encoding.md section 1;
D28, log 23; the tick of the step stands: D4, log 3). -/
def Obligations.FetchOutOfRangeHalts : Prop :=
  ∀ s : State, s.mode ≠ .halted → 0xFFE < s.pc.toNat →
    step s = .next (State.nextInputs { s.timerTick Config.timerPeriod s.now with
      mode := .halted
      fault := some ⟨.addressOutOfRange, s.pc, none, if 0xFFF < s.pc.toNat then s.pc.toNat else s.pc.toNat + 1⟩ })

/-- A word that matches no row halts with UnknownOpcode and the word (30_encoding.md section 4; the tick stands: D4, log 3). -/
def Obligations.UnknownWordHalts : Prop :=
  ∀ (s : State) (w : Word), s.mode ≠ .halted → s.pc.toNat ≤ 0xFFE →
    w = wordOfBytes (s.mem.byte s.pc.toNat) (s.mem.byte (s.pc.toNat + 1)) → decodeWord w = none →
    step s = .next (State.nextInputs { s.timerTick Config.timerPeriod s.now with
      mode := .halted, fault := some ⟨.unknownOpcode, s.pc, some w, w.toNat⟩ })

/-- A Halted machine answers every step with its recorded fault, stays as it is under every host operation, and refuses `load`
(60_exceptions.md section 1; D5, log 3). -/
def Obligations.HaltedMachineStaysHalted : Prop :=
  ∀ s : State, s.mode = .halted →
    step s = .fault (.halted s.fault) ∧ (∀ now rnd, stepWith now rnd s = (.fault s.fault, s)) ∧
      (∀ bytes, load bytes s = .refused .loadOutsideBoot) ∧ ∀ op : HostOp, op.apply s = s

/-- Faults of instructions are the table's, and precise: where the table names a fault, the instruction halts the machine with that cause
and info, the PC and its own word, and changes nothing else (60_exceptions.md section 1; D4, D10, D11, log 1 to 3, log 14, log 15). -/
def Obligations.FaultingInstructionOnlyHalts : Prop :=
  ∀ (i : Instr) (s : State) (k : Cause) (n : Nat), faultOf i s = some (k, n) →
    exec i s = .next { s with mode := .halted, fault := some ⟨k, s.pc, some (encode i), n⟩ }

/-- No other condition is a fault: where the table names none, every instruction completes, records no fault, and keeps the mode, but
for `FX0A`, which moves between Running and AwaitingKey (60_exceptions.md section 1; D20, log 22). -/
def Obligations.OtherInstructionsComplete : Prop :=
  ∀ (i : Instr) (s : State), faultOf i s = none →
    ∃ t, exec i s = .next t ∧ t.fault = s.fault ∧
      (t.mode = s.mode ∨ ∃ x, i = .ldVxK x ∧ (t.mode = .running ∨ t.mode = .awaitingKey))

/-- A step that faults leaves the state before it, updated by its timer clock, with mode Halted and the record added; the record's PC is
the PC (60_exceptions.md section 1, the precise faults; D4, log 3; the inputs are the model's own, log 5). -/
def Obligations.FaultingStepIsPrecise : Prop :=
  ∀ s t : State, s.mode ≠ .halted → step s = .next t → t.mode = .halted →
    ∃ r : FaultRecord, r.pc = s.pc ∧
      t = State.nextInputs { s.timerTick Config.timerPeriod s.now with mode := .halted, fault := some r }

/-- How each instruction sets the PC: the table of 10_state.md section 2. What is a fault and so leaves the PC is the table of faults,
which takes in the spec's own choices D4 (log 3: a fault writes nothing), D10 (`FX1E`, log 14), D11 (`EX9E`, `EXA1`, log 15) and D12
(`DXYN` with N = 0 is none, log 16). -/
def Obligations.NextPcByClass : Prop :=
  ∀ (i : Instr) (s t : State), exec i s = .next t →
    (faultOf i s ≠ none → t.pc = s.pc) ∧
    (faultOf i s = none →
      match i with
      | .jp nnn => t.pc.toNat = nnn.toNat
      | .call nnn => t.pc.toNat = nnn.toNat
      | .jpV0 nnn => t.pc.toNat = nnn.toNat + (s.getV 0).toNat
      | .ret => ∃ h : s.sp.val - 1 < 16, t.pc = s.stack[s.sp.val - 1] + 2#16
      | .ldVxK _ => (s.lowestPressed = none → t.pc = s.pc) ∧ (s.lowestPressed ≠ none → t.pc = s.pc + 2#16)
      | _ =>
        match skipCondition i s with
        | some c => (c → t.pc = s.pc + 4#16) ∧ (¬ c → t.pc = s.pc + 2#16)
        | none => t.pc = s.pc + 2#16)

/-! ## Whole-machine rules -/

/-- An instruction writes no register but its destination, V0 to Vx for `FX65`, and VF as a flag (10_state.md section 1; D9, log 13). -/
def Obligations.OnlyNamedRegistersChange : Prop :=
  ∀ (i : Instr) (s t : State) (r : Reg), exec i s = .next t → writesReg i r = false → t.getV r = s.getV r

/-- Only `setKey` and `clearAllKeys` write the keyboard latch; no instruction, step or load does (R634). -/
def Obligations.LatchWrittenByHostCallsOnly : Prop :=
  (∀ (i : Instr) (s t : State), exec i s = .next t → t.keys = s.keys) ∧
    ∀ (op : HostOp) (s : State), (op.apply s).keys ≠ s.keys → op = .clearAllKeys ∨ ∃ k b, op = .setKey k b

/-- The display changes only in a step that runs `00E0` or `DXYN`, and pixel (row, col) is element row*64+col of the row-major snapshot
(R501). -/
def Obligations.DisplayChangesOnlyByClsAndDrw : Prop :=
  (∀ (op : HostOp) (s : State), (op.apply s).display ≠ s.display →
    ∃ now rnd w i, op = .step now rnd ∧ s.fetch = .ok w ∧ decodeWord w = some i ∧ (i = .cls ∨ ∃ x y n, i = .drw x y n)) ∧
    ∀ (d : Display) (row : Fin 32) (col : Fin 64), d.element (row.val * 64 + col.val) = d.pixel row col

/-- A `DXYN` that completes emits one render event, a copy of the display after it, and nothing else emits one; events already emitted
stay (60_exceptions.md section 4; D29; the history is the model's own, log 20). -/
def Obligations.RenderEventPerCompletedDraw : Prop :=
  ∀ (i : Instr) (s t : State), exec i s = .next t →
    ((∃ x y n, i = .drw x y n) ∧ faultOf i s = none → t.renders = t.display :: s.renders) ∧
    (¬ ((∃ x y n, i = .drw x y n) ∧ faultOf i s = none) → t.renders = s.renders)

/-- The stack pointer moves by 1 up on a CALL and by 1 down on a RET and not otherwise, and the one entry written is S[SP] by a CALL
(10_state.md section 3; a pop clears nothing: D24, log 21). -/
def Obligations.StackMovesOnlyByCallAndRet : Prop :=
  ∀ (i : Instr) (s t : State), exec i s = .next t →
    (t.sp = s.sp ∧ t.stack = s.stack) ∨ ((∃ nnn, i = .call nnn) ∧ t.sp.val = s.sp.val + 1 ∧
        ∀ k, (h : k < 16) → k ≠ s.sp.val → t.stack[k] = s.stack[k]) ∨
      (i = .ret ∧ t.sp.val + 1 = s.sp.val ∧ t.stack = s.stack)

/-- Memory changes only by `FX33` and `FX55`, at I to I + 2 and at I to I + X (20_memory.md section 1; D4, log 3). -/
def Obligations.MemoryChangesOnlyByBcdAndStore : Prop :=
  ∀ (i : Instr) (s t : State) (a : Nat), s.mem.wf = true → exec i s = .next t → t.mem.byte a ≠ s.mem.byte a →
    ((∃ x, i = .ldB x) ∧ s.idx.toNat ≤ a ∧ a ≤ s.idx.toNat + 2) ∨
      ∃ x, i = .stRegs x ∧ s.idx.toNat ≤ a ∧ a ≤ s.idx.toNat + x.val

/-- In one step each timer stays or drops by 1, but for a step that runs `FX15` or `FX18`, which writes its timer (60_exceptions.md
section 3). -/
def Obligations.TimersDropByAtMostOne : Prop :=
  ∀ s t : State, step s = .next t →
    (t.dt = s.dt ∨ t.dt.toNat + 1 = s.dt.toNat ∨ ∃ w x, s.fetch = .ok w ∧ decodeWord w = some (.ldDTVx x)) ∧
    (t.st = s.st ∨ t.st.toNat + 1 = s.st.toNat ∨ ∃ w x, s.fetch = .ok w ∧ decodeWord w = some (.ldSTVx x))

/-- No instruction reads or writes the clock: with another `last_tick`, `now` and count of steps it does the same and leaves them
(10_state.md section 3; `now` and the count are the model's fields, log 5). -/
def Obligations.InstructionsIgnoreTheClock : Prop :=
  ∀ (i : Instr) (s t : State) (a b n : Nat), exec i s = .next t →
    exec i { s with lastTick := a, now := b, stepCount := n } = .next { t with lastTick := a, now := b, stepCount := n }

/-- Only `CXNN` reads the random draw (44_random.md; D23, log 5). -/
def Obligations.OnlyRndReadsTheDraw : Prop :=
  ∀ (i : Instr) (s t : State) (r : Byte), (∀ x nn, i ≠ .rnd x nn) → exec i s = .next t →
    exec i { s with rnd := r } = .next { t with rnd := r }

/-- No instruction reads the mode or the fault record: whatever they are, it does the same to everything else (10_state.md section 4). -/
def Obligations.InstructionsIgnoreTheMode : Prop :=
  ∀ (i : Instr) (s t : State) (m : Mode) (f : Option FaultRecord), exec i s = .next t →
    ∃ u, exec i { s with mode := m, fault := f } = .next u ∧ u = { t with mode := u.mode, fault := u.fault }

/-! ## Register operations -/

/-- `6XNN` sets Vx to NN, `8XY0` copies Vy, `7XNN` adds NN modulo 256 without a flag; PC + 2, and nothing else changes (R440, R441, R442;
VF is written only as the named Vx). -/
def Obligations.LoadAndAddImmediate : Prop :=
  ∀ (s : State) (x y : Reg) (nn : Byte),
    (∃ t, exec (.ldByte x nn) s = .next t ∧ WritesReg s t x nn) ∧
    (∃ t, exec (.ldReg x y) s = .next t ∧ WritesReg s t x (s.getV y)) ∧
    ∃ t, exec (.addByte x nn) s = .next t ∧ WritesReg s t x (BitVec.ofNat 8 (((s.getV x).toNat + nn.toNat) % 256))

/-- `8XY1`, `8XY2`, `8XY3` write the bitwise OR, AND, XOR to Vx and nothing else; VF is no flag of theirs (42_register_ops.md section 2;
D9, log 13). -/
def Obligations.LogicOperations : Prop :=
  ∀ (s : State) (x y : Reg),
    (∃ t, exec (.orReg x y) s = .next t ∧ WritesReg s t x (s.getV x ||| s.getV y)) ∧
    (∃ t, exec (.andReg x y) s = .next t ∧ WritesReg s t x (s.getV x &&& s.getV y)) ∧
    ∃ t, exec (.xorReg x y) s = .next t ∧ WritesReg s t x (s.getV x ^^^ s.getV y)

/-- `8XY4` writes the sum modulo 256 to Vx and then the carry to VF (42_register_ops.md section 2; VF last: D6, log 11). -/
def Obligations.AddWithCarry : Prop :=
  ∀ (s : State) (x y : Reg), ∃ t, exec (.addReg x y) s = .next t ∧
    WritesRegAndFlag s t x (BitVec.ofNat 8 (((s.getV x).toNat + (s.getV y).toNat) % 256))
      (if (s.getV x).toNat + (s.getV y).toNat > 255 then 1#8 else 0#8)

/-- `8XY5` and `8XY7` write the difference modulo 256 to Vx and then the borrow, 1 where one occurred, to VF (42_register_ops.md
section 2; VF last: D6, log 11). -/
def Obligations.SubtractWithBorrow : Prop :=
  ∀ (s : State) (x y : Reg),
    (∃ t, exec (.subReg x y) s = .next t ∧ WritesRegAndFlag s t x (s.getV x - s.getV y)
      (if (s.getV x).toNat < (s.getV y).toNat then 1#8 else 0#8)) ∧
    ∃ t, exec (.subnReg x y) s = .next t ∧ WritesRegAndFlag s t x (s.getV y - s.getV x)
      (if (s.getV y).toNat < (s.getV x).toNat then 1#8 else 0#8)

/-- `8XY6` and `8XYE` shift Vy by 1 into Vx; VF is the bit shifted out to the right, or the raw mask 0x80 of the bit shifted out to the
left (42_register_ops.md section 2; D6, D7, D8, log 11, log 12). -/
def Obligations.ShiftsOfTheOtherRegister : Prop :=
  ∀ (s : State) (x y : Reg),
    (∃ t, exec (.shrReg x y) s = .next t ∧ WritesRegAndFlag s t x (BitVec.ofNat 8 ((s.getV y).toNat / 2))
      (BitVec.ofNat 8 ((s.getV y).toNat % 2))) ∧
    ∃ t, exec (.shlReg x y) s = .next t ∧ WritesRegAndFlag s t x (BitVec.ofNat 8 (2 * (s.getV y).toNat % 256))
      (if 128 ≤ (s.getV y).toNat then 0x80#8 else 0x00#8)

/-- `CXNN` writes the draw of its step ANDed with NN to Vx, for every draw (44_random.md; D23, log 5). -/
def Obligations.RandomByteIsMaskedDraw : Prop :=
  ∀ (s : State) (x : Reg) (nn draw : Byte),
    ∃ t, exec (.rnd x nn) { s with rnd := draw } = .next t ∧ WritesReg { s with rnd := draw } t x (draw &&& nn)

/-! ## Control flow and skips -/

/-- `3XNN`, `4XNN`, `5XY0`, `9XY0` add 4 to PC where their condition holds and 2 where not, and change nothing else (R420, R421; the
register forms stand in 41_skips.md beside them). -/
def Obligations.CompareSkips : Prop :=
  ∀ (s : State) (x y : Reg) (nn : Byte),
    (∃ t, exec (.seByte x nn) s = .next t ∧ MovesPc s t (s.pc + if s.getV x = nn then 4#16 else 2#16)) ∧
    (∃ t, exec (.sneByte x nn) s = .next t ∧ MovesPc s t (s.pc + if s.getV x ≠ nn then 4#16 else 2#16)) ∧
    (∃ t, exec (.seReg x y) s = .next t ∧ MovesPc s t (s.pc + if s.getV x = s.getV y then 4#16 else 2#16)) ∧
    ∃ t, exec (.sneReg x y) s = .next t ∧ MovesPc s t (s.pc + if s.getV x ≠ s.getV y then 4#16 else 2#16)

/-- `EX9E` and `EXA1` with a key index up to 15 skip where the key is pressed and where it is not; an index above 15 halts with
InvalidKeyIndex (41_skips.md; the fault is D11, log 15). -/
def Obligations.KeySkips : Prop :=
  ∀ (s : State) (x : Reg),
    (∀ h : (s.getV x).toNat < 16,
      (∃ t, exec (.skp x) s = .next t ∧ MovesPc s t (s.pc + if s.keys[(s.getV x).toNat] = true then 4#16 else 2#16)) ∧
      ∃ t, exec (.sknp x) s = .next t ∧ MovesPc s t (s.pc + if s.keys[(s.getV x).toNat] = true then 2#16 else 4#16)) ∧
    (16 ≤ (s.getV x).toNat → ∀ i ∈ [Instr.skp x, Instr.sknp x],
      exec i s = .next { s with
        mode := .halted, fault := some ⟨.invalidKeyIndex, s.pc, some (encode i), (s.getV x).toNat⟩ })

/-- `1NNN` sets PC to NNN and `BNNN` to NNN + V0, without a wrap at 12 or 16 bits, and nothing else changes; the jump itself is no fault,
and where the target is above 0xFFE the next step faults with AddressOutOfRange (R402, R404; FetchOutOfRangeHalts says what that fault
records). -/
def Obligations.JumpTargets : Prop :=
  ∀ (s : State) (nnn : Addr12),
    (∃ t, exec (.jp nnn) s = .next t ∧ t.pc.toNat = nnn.toNat ∧ MovesPc s t t.pc) ∧
    (∃ t, exec (.jpV0 nnn) s = .next t ∧ t.pc.toNat = nnn.toNat + (s.getV 0).toNat ∧ MovesPc s t t.pc) ∧
    ∀ i ∈ [Instr.jp nnn, Instr.jpV0 nnn], ∀ t, s.mode ≠ .halted → exec i s = .next t → 0xFFE < t.pc.toNat →
      ∃ u r, step t = .next u ∧ u.fault = some r ∧ r.kind = .addressOutOfRange

/-- `2NNN` with room on the stack pushes its own address, counts it, and jumps; with SP = 16 it faults with StackOverflow and 16 (R403;
FaultingInstructionOnlyHalts says what else that fault does). -/
def Obligations.CallPushesItsOwnAddress : Prop :=
  ∀ (s : State) (nnn : Addr12),
    (∀ h : s.sp.val < 16, ∃ t, exec (.call nnn) s = .next t ∧ t.stack[s.sp.val] = s.pc ∧
      (∀ k, (hk : k < 16) → k ≠ s.sp.val → t.stack[k] = s.stack[k]) ∧ t.sp.val = s.sp.val + 1 ∧ t.pc.toNat = nnn.toNat ∧
      t = { s with stack := t.stack, sp := t.sp, pc := t.pc }) ∧
    (s.sp.val = 16 → ∃ t r, exec (.call nnn) s = .next t ∧ t.fault = some r ∧ r.kind = .stackOverflow ∧ r.info = 16)

/-- `00EE` with an entry on the stack pops it and sets PC to it plus 2; with SP = 0 it faults with StackUnderflow and 0 (R401;
FaultingInstructionOnlyHalts says what else that fault does). -/
def Obligations.RetGoesPastThePoppedCall : Prop :=
  ∀ s : State,
    (∀ h : 0 < s.sp.val, ∃ t, exec .ret s = .next t ∧ t.sp.val = s.sp.val - 1 ∧
      t.pc = s.stack[s.sp.val - 1]'(by omega) + 2#16 ∧ t = { s with sp := t.sp, pc := t.pc }) ∧
    (s.sp.val = 0 → ∃ t r, exec .ret s = .next t ∧ t.fault = some r ∧ r.kind = .stackUnderflow ∧ r.info = 0)

/-- A call and the return from it, with the stack left as the call left it, resume after the call at the old depth (95_test_vectors.md
L1-3, 90_conflicts.md C2). -/
def Obligations.CallThenReturnResumes : Prop :=
  ∀ (s t u : State) (nnn : Addr12), s.sp.val < 16 → exec (.call nnn) s = .next t → u.stack = t.stack → u.sp = t.sp →
    ∃ r, exec .ret u = .next r ∧ r.pc = s.pc + 2#16 ∧ r.sp = s.sp

/-- `00E0` unsets every pixel, PC + 2, and nothing else changes; no render event (40_control_flow.md; D29, log 20). -/
def Obligations.ClsBlanksTheDisplay : Prop :=
  ∀ s : State, ∃ t, exec .cls s = .next t ∧ (∀ row col, t.display.pixel row col = false) ∧ t.pc = s.pc + 2#16 ∧
    t = { s with display := t.display, pc := t.pc }

/-! ## Memory and index -/

/-- `ANNN` sets I to NNN, PC + 2, and nothing else changes (R480). -/
def Obligations.LoadIndexImmediate : Prop :=
  ∀ (s : State) (nnn : Addr12), ∃ t, exec (.ldI nnn) s = .next t ∧ t.idx.toNat = nnn.toNat ∧ t.pc = s.pc + 2#16 ∧
    t = { s with idx := t.idx, pc := t.pc }

/-- `FX1E` adds Vx to I, past 0xFFF too and without a flag; a sum above 0xFFFF halts with the sum (43_memory_index.md; D10, log 14). -/
def Obligations.AddToIndex : Prop :=
  ∀ (s : State) (x : Reg),
    (s.idx.toNat + (s.getV x).toNat ≤ 0xFFFF → ∃ t, exec (.addI x) s = .next t ∧
      t.idx.toNat = s.idx.toNat + (s.getV x).toNat ∧ t.pc = s.pc + 2#16 ∧ t = { s with idx := t.idx, pc := t.pc }) ∧
    (0xFFFF < s.idx.toNat + (s.getV x).toNat → exec (.addI x) s = .next { s with
      mode := .halted
      fault := some ⟨.addressOutOfRange, s.pc, some (encode (.addI x)), s.idx.toNat + (s.getV x).toNat⟩ })

/-- `FX29` points I at 5 times the digit, a digit up to 15; a larger value halts with it (43_memory_index.md; the digit order is general
knowledge, G4, log 8). -/
def Obligations.IndexOfGlyph : Prop :=
  ∀ (s : State) (x : Reg),
    ((s.getV x).toNat ≤ 15 → ∃ t, exec (.ldF x) s = .next t ∧ t.idx.toNat = 5 * (s.getV x).toNat ∧ t.pc = s.pc + 2#16 ∧
      t = { s with idx := t.idx, pc := t.pc }) ∧
    (15 < (s.getV x).toNat → exec (.ldF x) s = .next { s with
      mode := .halted, fault := some ⟨.addressOutOfRange, s.pc, some (encode (.ldF x)), (s.getV x).toNat⟩ })

/-- `FX33` stores the three decimal digits of Vx at I, I + 1, I + 2 and changes nothing else, I included; a range past 0xFFF halts and
writes nothing (43_memory_index.md; D4, D30, log 3, log 17). -/
def Obligations.BcdStoresThreeDigits : Prop :=
  ∀ (s : State) (x : Reg), s.mem.wf = true →
    (s.idx.toNat + 2 ≤ 0xFFF → ∃ t, exec (.ldB x) s = .next t ∧
      (t.mem.byte s.idx.toNat).toNat = (s.getV x).toNat / 100 ∧
      (t.mem.byte (s.idx.toNat + 1)).toNat = (s.getV x).toNat / 10 % 10 ∧
      (t.mem.byte (s.idx.toNat + 2)).toNat = (s.getV x).toNat % 10 ∧
      (∀ a, a < s.idx.toNat ∨ s.idx.toNat + 2 < a → t.mem.byte a = s.mem.byte a) ∧
      t.pc = s.pc + 2#16 ∧ t = { s with mem := t.mem, pc := t.pc }) ∧
    (0xFFF < s.idx.toNat + 2 → exec (.ldB x) s = .next { s with
      mode := .halted
      fault := some ⟨.addressOutOfRange, s.pc, some (encode (.ldB x)), max s.idx.toNat 0x1000⟩ })

/-- `FX55` stores V0 to Vx at I to I + X, advances I past them, and changes nothing else; a range past 0xFFF halts and writes nothing
(43_memory_index.md; D4, log 3). -/
def Obligations.StoreRegisters : Prop :=
  ∀ (s : State) (x : Reg), s.mem.wf = true →
    (s.idx.toNat + x.val ≤ 0xFFF → ∃ t, exec (.stRegs x) s = .next t ∧
      (∀ k : Reg, k.val ≤ x.val → t.mem.byte (s.idx.toNat + k.val) = s.getV k) ∧
      (∀ a, a < s.idx.toNat ∨ s.idx.toNat + x.val < a → t.mem.byte a = s.mem.byte a) ∧
      t.idx.toNat = s.idx.toNat + x.val + 1 ∧ t.pc = s.pc + 2#16 ∧ t = { s with mem := t.mem, idx := t.idx, pc := t.pc }) ∧
    (0xFFF < s.idx.toNat + x.val → exec (.stRegs x) s = .next { s with
      mode := .halted
      fault := some ⟨.addressOutOfRange, s.pc, some (encode (.stRegs x)), max s.idx.toNat 0x1000⟩ })

/-- `FX65` loads V0 to Vx from I to I + X, advances I past them, and changes nothing else; a range past 0xFFF halts and writes nothing
(43_memory_index.md; D4, log 3). -/
def Obligations.LoadRegisters : Prop :=
  ∀ (s : State) (x : Reg),
    (s.idx.toNat + x.val ≤ 0xFFF → ∃ t, exec (.ldRegs x) s = .next t ∧
      (∀ k : Reg, k.val ≤ x.val → t.getV k = s.mem.byte (s.idx.toNat + k.val)) ∧
      (∀ k : Reg, x.val < k.val → t.getV k = s.getV k) ∧
      t.idx.toNat = s.idx.toNat + x.val + 1 ∧ t.pc = s.pc + 2#16 ∧ t = { s with v := t.v, idx := t.idx, pc := t.pc }) ∧
    (0xFFF < s.idx.toNat + x.val → exec (.ldRegs x) s = .next { s with
      mode := .halted
      fault := some ⟨.addressOutOfRange, s.pc, some (encode (.ldRegs x)), max s.idx.toNat 0x1000⟩ })

/-- Loading V0 to Vx back from where they were stored gives them back, whatever the registers were in between
(43_memory_index.md, the inverse pair). -/
def Obligations.StoreThenLoadRestores : Prop :=
  ∀ (s t u : State) (x k : Reg), s.mem.wf = true → s.idx.toNat + x.val ≤ 0xFFF → exec (.stRegs x) s = .next t →
    u.mem = t.mem → u.idx = s.idx → k.val ≤ x.val → ∃ r, exec (.ldRegs x) u = .next r ∧ r.getV k = s.getV k

/-- Two memories in the canonical form that read the same at every address are the same data (the form is the model's own, log 7). -/
def Obligations.CanonicalMemoryIsExtensional : Prop :=
  ∀ m m' : Memory, m.wf = true → m'.wf = true → (∀ a, m.byte a = m'.byte a) → m = m'

/-! ## Sprites -/

/-- `DXYN` with its bytes in range flips exactly the pixels under the sprite's 1 bits, wrapping on both axes; VF is 1 exactly where one of
them was set; one render event; N = 0 draws nothing. A range past 0xFFF halts and draws nothing (45_sprite_draw.md; D4, D12, D13, D14,
D29, log 3, log 16, log 20). -/
def Obligations.DrawFlipsTheCoveredPixels : Prop :=
  ∀ (s : State) (x y : Reg) (n : Fin 16),
    (n.val = 0 ∨ s.idx.toNat + n.val ≤ 0x1000 → ∃ t, exec (.drw x y n) s = .next t ∧
      (∀ row col,
        (SpriteCovers s.mem s.idx.toNat n.val (s.getV x).toNat (s.getV y).toNat row col →
          t.display.pixel row col = !(s.display.pixel row col)) ∧
        (¬ SpriteCovers s.mem s.idx.toNat n.val (s.getV x).toNat (s.getV y).toNat row col →
          t.display.pixel row col = s.display.pixel row col)) ∧
      ((∃ row col, SpriteCovers s.mem s.idx.toNat n.val (s.getV x).toNat (s.getV y).toNat row col ∧
          s.display.pixel row col = true) → t.getV regF = 1#8) ∧
      ((¬ ∃ row col, SpriteCovers s.mem s.idx.toNat n.val (s.getV x).toNat (s.getV y).toNat row col ∧
          s.display.pixel row col = true) → t.getV regF = 0#8) ∧
      (∀ r, r ≠ regF → t.getV r = s.getV r) ∧ t.pc = s.pc + 2#16 ∧ t.renders = t.display :: s.renders ∧
      t = { s with display := t.display, v := t.v, pc := t.pc, renders := t.renders }) ∧
    (¬ (n.val = 0 ∨ s.idx.toNat + n.val ≤ 0x1000) → exec (.drw x y n) s = .next { s with
      mode := .halted
      fault := some ⟨.addressOutOfRange, s.pc, some (encode (.drw x y n)), max s.idx.toNat 0x1000⟩ })

/-- Drawing the same sprite twice restores the display, and the second draw collides exactly where the first one set a pixel
(95_test_vectors.md L1-7; VF as a coordinate is shut out because the first draw overwrites it: D6, log 11). -/
def Obligations.DrawTwiceRestores : Prop :=
  ∀ (s t u : State) (x y : Reg) (n : Fin 16), x ≠ regF → y ≠ regF → n.val = 0 ∨ s.idx.toNat + n.val ≤ 0x1000 →
    exec (.drw x y n) s = .next t → exec (.drw x y n) t = .next u →
    u.display = s.display ∧ (u.getV regF = 1#8 ↔ ∃ row col, t.display.pixel row col = true ∧ s.display.pixel row col = false)

/-! ## Timers and keys -/

/-- `FX15` sets DT and `FX18` sets ST from Vx; PC + 2, and nothing else changes (R522, R523); `FX07` copies DT to Vx
(46_timers_keys.md). -/
def Obligations.TimerMoves : Prop :=
  ∀ (s : State) (x : Reg),
    (∃ t, exec (.ldVxDT x) s = .next t ∧ WritesReg s t x s.dt) ∧
    (exec (.ldDTVx x) s = .next { s with dt := s.getV x, pc := s.pc + 2#16 }) ∧
    (exec (.ldSTVx x) s = .next { s with st := s.getV x, pc := s.pc + 2#16 })

/-- `FX07` reads the delay timer after the decay of its own step (46_timers_keys.md; the inputs are the model's own, log 5). -/
def Obligations.DelayTimerReadAfterDecay : Prop :=
  ∀ (s : State) (x : Reg), s.mode ≠ .halted → s.pc.toNat ≤ 0xFFE →
    decodeWord (wordOfBytes (s.mem.byte s.pc.toNat) (s.mem.byte (s.pc.toNat + 1))) = some (.ldVxDT x) →
    ∃ t, step s = .next t ∧ t.getV x = t.dt ∧
      t.dt.toNat = if Config.timerPeriod ≤ s.now - s.lastTick then s.dt.toNat - 1 else s.dt.toNat

/-- The timer clock: where the time since the last decrement meets the period, both timers drop by 1 with 0 as the floor and `last_tick`
becomes `now`; else nothing changes. A clock that went back counts as no time (60_exceptions.md section 3; D22, log 4). -/
def Obligations.TimerClockRule : Prop :=
  ∀ (s : State) (period now : Nat),
    (s.lastTick ≤ now ∧ period ≤ now - s.lastTick ∨ now < s.lastTick ∧ period = 0 →
      (s.timerTick period now).dt.toNat = s.dt.toNat - 1 ∧ (s.timerTick period now).st.toNat = s.st.toNat - 1 ∧
      s.timerTick period now =
        { s with dt := (s.timerTick period now).dt, st := (s.timerTick period now).st, lastTick := now }) ∧
    (s.lastTick ≤ now ∧ now - s.lastTick < period ∨ now < s.lastTick ∧ 0 < period → s.timerTick period now = s)

/-- `FX0A` with a key pressed stores the lowest pressed key's number and goes on in mode Running; with none it stays at its own PC in
mode AwaitingKey. Nothing else changes, the latch included (46_timers_keys.md; level-triggered: D18, log 18). -/
def Obligations.WaitForKey : Prop :=
  ∀ (s : State) (x : Reg),
    (∀ k, (h : k < 16) → s.keys[k] = true → (∀ j, (hj : j < k) → s.keys[j]'(by omega) = false) →
      ∃ t, exec (.ldVxK x) s = .next t ∧ (t.getV x).toNat = k ∧ (∀ r, r ≠ x → t.getV r = s.getV r) ∧ t.mode = .running ∧
        t.pc = s.pc + 2#16 ∧ t = { s with v := t.v, mode := t.mode, pc := t.pc }) ∧
    ((∀ k, (h : k < 16) → s.keys[k] = false) → exec (.ldVxK x) s = .next { s with mode := .awaitingKey })

/-! ## Reset and the invariant -/

/-- What reset leaves (70_reset_and_hazards.md section 1): registers, timers and stack zero, PC 0x200, mode Running, no fault, the
display blank, the latch released (D17, log 18). `construct` leaves the same with `last_tick` its argument (D22, log 6) and the memory of
its font. -/
def Obligations.ResetValues : Prop :=
  (∀ r, State.reset.getV r = 0#8) ∧ State.reset.pc = 0x200#16 ∧ State.reset.idx = 0#16 ∧ State.reset.sp = 0 ∧
    (∀ k, (h : k < 16) → State.reset.stack[k] = 0#16) ∧ State.reset.dt = 0#8 ∧ State.reset.st = 0#8 ∧
    State.reset.mode = .running ∧ State.reset.fault = none ∧ (∀ row col, State.reset.display.pixel row col = false) ∧
    (∀ k, (h : k < 16) → State.reset.keys[k] = false) ∧
    ∀ t0 fontTable, construct t0 fontTable = { State.reset with lastTick := t0, mem := (construct t0 fontTable).mem }

/-- Memory at reset: for every font, `construct` puts its 80 bytes at 0x000 to 0x04F and 0x00 from 0x050 on; with the default font that is
the memory of the reset state, whose first and last glyphs are as the table has them (10_state.md section 6, 00_scope.md section 5; D15,
D16, log 7, log 8). -/
def Obligations.ResetMemory : Prop :=
  (∀ t0 (fontTable : FontTable) a, (h : a < 0x050) → (construct t0 fontTable).mem.byte a = fontTable[a]) ∧
    (∀ t0 (fontTable : FontTable) a, 0x050 ≤ a → (construct t0 fontTable).mem.byte a = 0x00#8) ∧
    (∀ t0, (construct t0).mem = State.reset.mem) ∧
    State.reset.mem.read 0x000 5 = .ok [0xF0, 0x90, 0x90, 0x90, 0xF0] ∧
    State.reset.mem.read 0x04B 5 = .ok [0xF0, 0x80, 0xF0, 0x80, 0x80]

/-- The invariant holds at reset (the model's own, log 7 and log 21 to 24). -/
def Obligations.InvariantAtReset : Prop := State.reset.Inv

/-- Every step keeps the invariant: memory stays canonical, Halted goes with a fault record at the PC, the PC stays at most 0x10FE, every
return address was fetched, and AwaitingKey stands at an `FX0A` (10_state.md sections 2 to 4, 46_timers_keys.md). -/
def Obligations.StepKeepsInvariant : Prop :=
  ∀ s t : State, s.Inv → step s = .next t → t.Inv

/-- Every host operation keeps the invariant: load with any bytes, a step with any inputs, setKey with any index, clearAllKeys
(60_exceptions.md section 4, 70_reset_and_hazards.md section 2; D19, D31, log 18; D27, log 19). -/
def Obligations.HostOperationKeepsInvariant : Prop :=
  ∀ (op : HostOp) (s : State), s.Inv → (op.apply s).Inv

/-- The invariant holds after every sequence of host operations from construction: whatever the construction time, the font, the program,
the times, the draws and the key calls (70_reset_and_hazards.md sections 1 to 3; D19, log 18). -/
def Obligations.InvariantOnEveryHostRun : Prop :=
  ∀ (t0 : Nat) (fontTable : FontTable) (ops : List HostOp), (runHost t0 fontTable ops).Inv

/-! ## The host's operations -/

/-- `load` before the first step: up to 3232 bytes are copied to 0x200 on and nothing else changes; a longer ROM is refused as
RomTooLarge and changes nothing; after an empty ROM the first fetch reads 0x0000, which raises UnknownOpcode
(70_reset_and_hazards.md section 2; the 0x00 outside the font is D16, log 7). -/
def Obligations.LoadCopiesTheRom : Prop :=
  ∀ (s : State) (bytes : List Byte), s.mem.wf = true → s.mode ≠ .halted → s.stepCount = 0 →
    (bytes.length ≤ 3232 → ∃ t, load bytes s = .next (.ok, t) ∧
      (∀ k, (h : k < bytes.length) → t.mem.byte (0x200 + k) = bytes[k]) ∧
      (∀ a, a < 0x200 ∨ 0x200 + bytes.length ≤ a → t.mem.byte a = s.mem.byte a) ∧ t = { s with mem := t.mem }) ∧
    (3232 < bytes.length → load bytes s = .next (.romTooLarge bytes.length, s)) ∧
    (∀ t0 fontTable, load [] (construct t0 fontTable) = .next (.ok, construct t0 fontTable) ∧
      ∃ u, step (construct t0 fontTable) = .next u ∧ u.mode = .halted ∧ u.fault = some ⟨.unknownOpcode, 0x200#16, some 0x0000#16, 0⟩)

/-- `load` after a step is refused (70_reset_and_hazards.md section 2; D27, log 19). -/
def Obligations.LoadRefusedAfterAStep : Prop :=
  ∀ (s t : State) (bytes : List Byte), step s = .next t → load bytes t = .refused .loadOutsideBoot

/-- `setKey` writes the one key; an index above 15 halts with InvalidKeyIndex, the PC, no opcode and the index; a Halted machine ignores it
(60_exceptions.md section 4; D31, log 18). -/
def Obligations.SetKeyWritesOneKey : Prop :=
  ∀ (s : State) (k : Nat) (b : Bool), s.mode ≠ .halted →
    (k < 16 → (∀ j, (h : j < 16) → (setKey k b s).keys[j] = if j = k then b else s.keys[j]) ∧
      setKey k b s = { s with keys := (setKey k b s).keys }) ∧
    (16 ≤ k → setKey k b s = { s with mode := .halted, fault := some ⟨.invalidKeyIndex, s.pc, none, k⟩ })

/-- `clearAllKeys` releases every key and changes nothing else, and has no effect in mode Halted (R633). -/
def Obligations.ClearAllKeysReleasesEveryKey : Prop :=
  ∀ s : State,
    (s.mode ≠ .halted → (∀ k, (h : k < 16) → (clearAllKeys s).keys[k] = false) ∧
      clearAllKeys s = { s with keys := (clearAllKeys s).keys }) ∧
    (s.mode = .halted → clearAllKeys s = s)

/-- `shouldPlaySound` is ST > 1, in every mode, and nothing but ST decides it (R637). -/
def Obligations.SoundWhileTimerAboveOne : Prop :=
  ∀ s : State, (shouldPlaySound s = true ↔ 1 < s.st.toNat) ∧ (s.st = 0#8 ∨ s.st = 1#8 → shouldPlaySound s = false)
end

