-- ==== Sys2Proof/Laws/Memory.lean ====
section
/-! SUPPORT. Memory: the range check in closed form, read after write, and the canonical form under every operation. -/

namespace Sys2Proof.Machine

/-! ## The range check -/

theorem find?_range_offset (a m n : Nat) :
    ((List.range n).map (a + ·)).find? (fun k => decide (m ≤ k)) =
      if n = 0 ∨ a + n ≤ m then none else some (max a m) := by
  induction n generalizing a with
  | zero => simp
  | succ n ih =>
    rw [List.range_succ_eq_map, List.map_cons, List.map_map, List.find?_cons]
    have hshift : (List.range n).map ((a + ·) ∘ Nat.succ) = (List.range n).map ((a + 1) + ·) :=
      List.map_congr_left fun k _ => by simp only [Function.comp]; omega
    rw [hshift, ih]
    by_cases h : m ≤ a
    · simp [h]; omega
    · simp only [Nat.add_zero, h, decide_false]
      split <;> split <;> first | rfl | omega | (congr 1; omega)

/-- The lowest bad address of a range: none where the range is empty or ends at 0xFFF or below, else the first address of it that
is above 0xFFF. -/
theorem firstBadAddress_eq (a n : Nat) :
    firstBadAddress a n = if n = 0 ∨ a + n ≤ Config.memSize then none else some (max a Config.memSize) :=
  find?_range_offset a Config.memSize n

theorem firstBadAddress_eq_none_iff (a n : Nat) :
    firstBadAddress a n = none ↔ n = 0 ∨ a + n ≤ Config.memSize := by
  rw [firstBadAddress_eq]; split <;> simp_all

theorem Memory.read_eq (m : Memory) (a n : Nat) :
    m.read a n = if n = 0 ∨ a + n ≤ Config.memSize then .ok ((List.range n).map fun k => m.byte (a + k))
      else .error (max a Config.memSize) := by
  unfold read; rw [firstBadAddress_eq]; split <;> simp_all

theorem Memory.store_eq (m : Memory) (a : Nat) (bs : List Byte) :
    m.store a bs = if bs.length = 0 ∨ a + bs.length ≤ Config.memSize then .ok (m.writeBytes a bs)
      else .error (max a Config.memSize) := by
  unfold store; rw [firstBadAddress_eq]; split <;> simp_all

/-! ## The canonical form -/

theorem Memory.wfFrom_weaken {lo lo' : Nat} {m : Memory} (hle : lo' ≤ lo) (h : wfFrom lo m = true) :
    wfFrom lo' m = true := by
  cases m with
  | nil => rfl
  | cons p rest =>
    simp only [wfFrom, Bool.and_eq_true, decide_eq_true_eq] at h ⊢
    exact ⟨⟨⟨by omega, h.1.1.2⟩, h.1.2⟩, h.2⟩

/-- Below its first possible address a canonical memory lists nothing. -/
theorem Memory.byte_of_lt {lo a : Nat} {m : Memory} (h : wfFrom lo m = true) (ha : a < lo) :
    byte m a = initial a := by
  induction m generalizing lo with
  | nil => rfl
  | cons p rest ih =>
    obtain ⟨a', b'⟩ := p
    simp only [wfFrom, Bool.and_eq_true, decide_eq_true_eq] at h
    have hne : a ≠ a' := by omega
    simp only [byte, hne, if_false]
    exact ih h.2 (by omega)

theorem Memory.byte_listed (a : Nat) (b : Byte) (rest : Memory) (a' : Nat) (h : wfFrom (a + 1) rest = true) :
    byte (listed a b rest) a' = if a' = a then b else byte rest a' := by
  unfold listed
  split
  next hb =>
    split
    next ha => subst ha; rw [byte_of_lt h (by omega), hb]
    · rfl
  · rfl

theorem Memory.wfFrom_listed {lo a : Nat} {b : Byte} {rest : Memory} (h : wfFrom (a + 1) rest = true)
    (hlo : lo ≤ a) (ha : a < Config.memSize) : wfFrom lo (listed a b rest) = true := by
  unfold listed
  split
  · exact wfFrom_weaken (by omega) h
  · simp_all [wfFrom]

/-- Read after write, from a canonical memory. -/
theorem Memory.byte_write_from {lo : Nat} {m : Memory} (h : wfFrom lo m = true) (a : Nat) (b : Byte) (a' : Nat) :
    byte (write m a b) a' = if a' = a then b else byte m a' := by
  induction m generalizing lo with
  | nil => exact byte_listed a b [] a' rfl
  | cons p rest ih =>
    obtain ⟨c, d⟩ := p
    have hw := h
    simp only [wfFrom, Bool.and_eq_true, decide_eq_true_eq] at hw
    unfold write
    split
    next hlt =>
      refine byte_listed a b _ a' ?_
      simp only [wfFrom, Bool.and_eq_true, decide_eq_true_eq]
      exact ⟨⟨⟨by omega, hw.1.1.2⟩, hw.1.2⟩, hw.2⟩
    next hlt =>
      split
      next heq =>
        subst heq
        rw [byte_listed a b rest a' hw.2]
        simp only [byte]
        split <;> rfl
      next hne =>
        simp only [byte]
        rw [ih hw.2]
        split
        next hc => subst hc; rw [if_neg (by omega)]
        · rfl

/-- Writing keeps the canonical form, above any bound that lies at or below the address. -/
theorem Memory.wfFrom_write {lo : Nat} {m : Memory} (h : wfFrom lo m = true) {a : Nat} (b : Byte) (hlo : lo ≤ a)
    (ha : a < Config.memSize) : wfFrom lo (write m a b) = true := by
  induction m generalizing lo with
  | nil => exact wfFrom_listed rfl hlo ha
  | cons p rest ih =>
    obtain ⟨c, d⟩ := p
    have hw := h
    simp only [wfFrom, Bool.and_eq_true, decide_eq_true_eq] at hw
    unfold write
    split
    next hlt =>
      refine wfFrom_listed ?_ hlo ha
      simp only [wfFrom, Bool.and_eq_true, decide_eq_true_eq]
      exact ⟨⟨⟨by omega, hw.1.1.2⟩, hw.1.2⟩, hw.2⟩
    next hlt =>
      split
      next heq => subst heq; exact wfFrom_listed hw.2 hlo ha
      next hne =>
        simp only [wfFrom, Bool.and_eq_true, decide_eq_true_eq]
        exact ⟨⟨⟨hw.1.1.1, hw.1.1.2⟩, hw.1.2⟩, ih hw.2 (by omega)⟩

theorem Memory.byte_write {m : Memory} (h : m.wf = true) (a : Nat) (b : Byte) (a' : Nat) :
    (m.write a b).byte a' = if a' = a then b else m.byte a' :=
  byte_write_from h a b a'

theorem Memory.wf_write {m : Memory} (h : m.wf = true) {a : Nat} (b : Byte) (ha : a < Config.memSize) :
    (m.write a b).wf = true :=
  wfFrom_write h b (Nat.zero_le a) ha

theorem Memory.wf_writeBytes {m : Memory} (h : m.wf = true) {a : Nat} {bs : List Byte}
    (ha : bs.length = 0 ∨ a + bs.length ≤ Config.memSize) : (m.writeBytes a bs).wf = true := by
  induction bs generalizing m a with
  | nil => exact h
  | cons b bs ih =>
    simp only [List.length_cons] at ha
    exact ih (wf_write h b (by omega)) (by omega)

/-- Read after a run of writes to rising addresses. -/
theorem Memory.byte_writeBytes {m : Memory} (h : m.wf = true) {a : Nat} {bs : List Byte}
    (ha : bs.length = 0 ∨ a + bs.length ≤ Config.memSize) (a' : Nat) :
    (m.writeBytes a bs).byte a' = if a ≤ a' then (bs[a' - a]?).getD (m.byte a') else m.byte a' := by
  induction bs generalizing m a with
  | nil => simp [writeBytes]
  | cons b bs ih =>
    simp only [List.length_cons] at ha
    unfold writeBytes
    rw [ih (wf_write h b (by omega)) (by omega), byte_write h]
    by_cases h1 : a + 1 ≤ a'
    · have h2 : a' - a = (a' - (a + 1)) + 1 := by omega
      rw [if_pos h1, if_pos (show a ≤ a' by omega), if_neg (show ¬ a' = a by omega), h2, List.getElem?_cons_succ]
    · rw [if_neg h1]
      by_cases h3 : a' = a
      · subst h3; simp
      · rw [if_neg h3, if_neg (show ¬ a ≤ a' by omega)]

/-- A successful store keeps the canonical form. -/
theorem Memory.wf_store {m m' : Memory} {a : Nat} {bs : List Byte} (h : m.wf = true) (hs : m.store a bs = .ok m') :
    m'.wf = true := by
  rw [store_eq] at hs
  split at hs
  next hr => cases hs; exact wf_writeBytes h hr
  · cases hs

end Sys2Proof.Machine
end

