-- ==== Sys2Proof/Laws/Block.lean ====
section
/-! SUPPORT. What `construct` leaves: each field, memory byte by byte for every font, and the reset state as its default. -/

namespace Sys2Proof.Machine

variable (t0 : Nat) (fontTable : FontTable)

/-! ## Fields -/

@[simp] theorem construct_pc : (construct t0 fontTable).pc = 0x200#16 := rfl
@[simp] theorem construct_sp : (construct t0 fontTable).sp = 0 := rfl
@[simp] theorem construct_lastTick : (construct t0 fontTable).lastTick = t0 := rfl
@[simp] theorem construct_mode : (construct t0 fontTable).mode = .running := rfl
@[simp] theorem construct_fault : (construct t0 fontTable).fault = none := rfl
@[simp] theorem construct_stepCount : (construct t0 fontTable).stepCount = 0 := rfl

/-! ## Memory -/

theorem construct_mem_wf : (construct t0 fontTable).mem.wf = true :=
  Memory.wf_writeBytes rfl (by simp [Config.fontBase, Config.memSize])

theorem initial_of_le {a : Nat} (ha : 80 ≤ a) : Memory.initial a = 0x00#8 := by
  have hlen : font.length = 80 := rfl
  simp [Memory.initial, Config.fontBase, List.getElem?_eq_none (show font.length ≤ a by omega)]

/-- The font from 0x000 on, and 0x00 after it (R131, R700). -/
theorem construct_byte (a : Nat) : (construct t0 fontTable).mem.byte a = (fontTable.toList[a]?).getD 0x00#8 := by
  have hlen : fontTable.toList.length = 80 := by simp
  show Memory.byte (Memory.writeBytes [] Config.fontBase fontTable.toList) a = _
  rw [Memory.byte_writeBytes rfl (by simp [Config.fontBase, Config.memSize]),
    if_pos (show Config.fontBase ≤ a from Nat.zero_le a)]
  show (fontTable.toList[a]?).getD (Memory.initial a) = _
  by_cases ha : a < 80
  · rw [List.getElem?_eq_getElem (by omega)]; rfl
  · rw [List.getElem?_eq_none (by omega)]; exact initial_of_le (by omega)

/-! ## The default -/

theorem writeBytes_defaultFont : Memory.writeBytes [] Config.fontBase defaultFont.toList = [] := by decide +kernel

theorem construct_default : construct t0 = { State.reset with lastTick := t0 } := by
  unfold construct; rw [writeBytes_defaultFont]; rfl

theorem reset_eq_construct : State.reset = construct Config.constructTime := (construct_default Config.constructTime).symm

end Sys2Proof.Machine
end

