-- ==== Sys2Proof/Laws/Display.lean ====
section
/-! SUPPORT. Reading a pixel after a pixel is written and after one bit of the draw loop is plotted. -/

namespace Sys2Proof.Machine

theorem Display.pixel_setPixel (d : Display) (row : Fin 32) (col : Fin 64) (b : Bool) (row' : Fin 32) (col' : Fin 64) :
    pixel (setPixel d row col b) row' col' = if row' = row ∧ col' = col then b else pixel d row' col' := by
  simp only [pixel, setPixel, Vector.getElem_set]
  by_cases hr : row' = row
  · subst hr
    by_cases hc : col' = col
    · simp [hc]
    · have hv : ¬ col.val = col'.val := fun h => hc (Fin.ext h.symm)
      simp [hc, hv]
  · have hv : ¬ row.val = row'.val := fun h => hr (Fin.ext h.symm)
    simp [hr, hv]

/-- A display is decided by its pixels. -/
theorem Display.ext_pixel {d d' : Display} (h : ∀ row col, pixel d row col = pixel d' row col) : d = d' := by
  apply Vector.ext
  intro i hi
  apply Vector.ext
  intro j hj
  exact h ⟨i, hi⟩ ⟨j, hj⟩

/-- A 0 bit plots nothing (R500). -/
theorem plotBit_false (row : Fin 32) (col : Fin 64) (p : Drawing) : plotBit false row col p = p := by
  obtain ⟨d, hit⟩ := p
  refine Prod.ext (Display.ext_pixel fun row' col' => ?_) (by simp [plotBit])
  simp only [plotBit, Display.pixel_setPixel, Bool.xor_false]
  split
  next h => rw [h.1, h.2]
  · rfl

/-- The pixels after one bit is plotted. -/
theorem pixel_plotBit (bit : Bool) (row : Fin 32) (col : Fin 64) (p : Drawing) (row' : Fin 32) (col' : Fin 64) :
    (plotBit bit row col p).1.pixel row' col' =
      if row' = row ∧ col' = col then p.1.pixel row' col' ^^ bit else p.1.pixel row' col' := by
  simp only [plotBit, Display.pixel_setPixel]
  split
  next h => rw [h.1, h.2]
  · rfl

end Sys2Proof.Machine
end

