-- ==== Sys2Proof/Laws/Encoding.lean ====
section
/-! SUPPORT. The fields of a word and the packed words as numbers (R301): every encoding claim goes through them. -/

namespace Sys2Proof

theorem toNat_append_eq {v w : Nat} (a : BitVec v) (b : BitVec w) : (a ++ b).toNat = a.toNat * 2 ^ w + b.toNat := by
  rw [BitVec.toNat_append, ← Nat.shiftLeft_add_eq_or_of_lt b.isLt, Nat.shiftLeft_eq]

theorem toNat_packXYN (op : BitVec 4) (x y n : Fin 16) :
    (packXYN op x y n).toNat = op.toNat * 4096 + x.val * 256 + y.val * 16 + n.val := by
  show BitVec.toNat (w := 4 + 4 + 4 + 4)
    (op ++ (BitVec.ofFin x : BitVec 4) ++ (BitVec.ofFin y : BitVec 4) ++ (BitVec.ofFin n : BitVec 4)) = _
  rw [toNat_append_eq, toNat_append_eq, toNat_append_eq]
  show ((op.toNat * 2 ^ 4 + x.val) * 2 ^ 4 + y.val) * 2 ^ 4 + n.val = _
  omega

theorem toNat_packXNN (op : BitVec 4) (x : Reg) (nn : Byte) :
    (packXNN op x nn).toNat = op.toNat * 4096 + x.val * 256 + nn.toNat := by
  show BitVec.toNat (w := 4 + 4 + 8) (op ++ (BitVec.ofFin x : BitVec 4) ++ nn) = _
  rw [toNat_append_eq, toNat_append_eq]
  show (op.toNat * 2 ^ 4 + x.val) * 2 ^ 8 + nn.toNat = _
  omega

theorem toNat_packNNN (op : BitVec 4) (nnn : Addr12) : (packNNN op nnn).toNat = op.toNat * 4096 + nnn.toNat := by
  show BitVec.toNat (w := 4 + 12) (op ++ nnn) = _
  rw [toNat_append_eq]
  rfl

theorem toNat_fieldOp (w : Word) : (fieldOp w).toNat = w.toNat / 4096 := by
  have := w.isLt
  simp only [fieldOp, BitVec.extractLsb'_toNat, Nat.shiftRight_eq_div_pow]
  omega

theorem val_fieldX (w : Word) : (fieldX w).val = w.toNat / 256 % 16 := by
  show (w.extractLsb' 8 4).toNat = _
  simp only [BitVec.extractLsb'_toNat, Nat.shiftRight_eq_div_pow]

theorem val_fieldY (w : Word) : (fieldY w).val = w.toNat / 16 % 16 := by
  show (w.extractLsb' 4 4).toNat = _
  simp only [BitVec.extractLsb'_toNat, Nat.shiftRight_eq_div_pow]

theorem val_fieldN (w : Word) : (fieldN w).val = w.toNat % 16 := by
  show (w.extractLsb' 0 4).toNat = _
  simp only [BitVec.extractLsb'_toNat, Nat.shiftRight_eq_div_pow, Nat.pow_zero, Nat.div_one]

theorem toNat_fieldNN (w : Word) : (fieldNN w).toNat = w.toNat % 256 := by
  simp only [fieldNN, BitVec.extractLsb'_toNat, Nat.shiftRight_eq_div_pow, Nat.pow_zero, Nat.div_one]

theorem toNat_fieldNNN (w : Word) : (fieldNNN w).toNat = w.toNat % 4096 := by
  simp only [fieldNNN, BitVec.extractLsb'_toNat, Nat.shiftRight_eq_div_pow, Nat.pow_zero, Nat.div_one]

/-! ## The fields of a packed word -/

section packXYN

variable (op : BitVec 4) (x y n : Fin 16)

@[simp] theorem fieldOp_packXYN : fieldOp (packXYN op x y n) = op :=
  BitVec.eq_of_toNat_eq (by rw [toNat_fieldOp, toNat_packXYN]; have := op.isLt; omega)
@[simp] theorem fieldX_packXYN : fieldX (packXYN op x y n) = x :=
  Fin.ext (by rw [val_fieldX, toNat_packXYN]; omega)
@[simp] theorem fieldY_packXYN : fieldY (packXYN op x y n) = y :=
  Fin.ext (by rw [val_fieldY, toNat_packXYN]; omega)
@[simp] theorem fieldN_packXYN : fieldN (packXYN op x y n) = n :=
  Fin.ext (by rw [val_fieldN, toNat_packXYN]; omega)

end packXYN

section packXNN

variable (op : BitVec 4) (x : Reg) (nn : Byte)

@[simp] theorem fieldOp_packXNN : fieldOp (packXNN op x nn) = op :=
  BitVec.eq_of_toNat_eq (by rw [toNat_fieldOp, toNat_packXNN]; have := nn.isLt; omega)
@[simp] theorem fieldX_packXNN : fieldX (packXNN op x nn) = x :=
  Fin.ext (by rw [val_fieldX, toNat_packXNN]; have := nn.isLt; omega)
@[simp] theorem fieldNN_packXNN : fieldNN (packXNN op x nn) = nn :=
  BitVec.eq_of_toNat_eq (by rw [toNat_fieldNN, toNat_packXNN]; have := nn.isLt; omega)

end packXNN

section packNNN

variable (op : BitVec 4) (nnn : Addr12)

@[simp] theorem fieldOp_packNNN : fieldOp (packNNN op nnn) = op :=
  BitVec.eq_of_toNat_eq (by rw [toNat_fieldOp, toNat_packNNN]; have := nnn.isLt; omega)
@[simp] theorem fieldNNN_packNNN : fieldNNN (packNNN op nnn) = nnn :=
  BitVec.eq_of_toNat_eq (by rw [toNat_fieldNNN, toNat_packNNN]; have := nnn.isLt; omega)

end packNNN

/-! ## A word from its fields -/

@[simp] theorem packNNN_fields (w : Word) : packNNN (fieldOp w) (fieldNNN w) = w :=
  BitVec.eq_of_toNat_eq (by rw [toNat_packNNN, toNat_fieldOp, toNat_fieldNNN]; omega)

@[simp] theorem packXNN_fields (w : Word) : packXNN (fieldOp w) (fieldX w) (fieldNN w) = w :=
  BitVec.eq_of_toNat_eq (by rw [toNat_packXNN, toNat_fieldOp, val_fieldX, toNat_fieldNN]; omega)

@[simp] theorem packXYN_fields (w : Word) : packXYN (fieldOp w) (fieldX w) (fieldY w) (fieldN w) = w :=
  BitVec.eq_of_toNat_eq (by rw [toNat_packXYN, toNat_fieldOp, val_fieldX, val_fieldY, val_fieldN]; omega)

/-! ## Words and their bytes -/

theorem toNat_wordOfBytes (hi lo : Byte) : (wordOfBytes hi lo).toNat = hi.toNat * 256 + lo.toNat := by
  show BitVec.toNat (w := 8 + 8) (hi ++ lo) = _
  rw [toNat_append_eq]
  rfl

@[simp] theorem wordOfBytes_split (w : Word) : wordOfBytes (w.extractLsb' 8 8) (w.extractLsb' 0 8) = w := by
  apply BitVec.eq_of_toNat_eq
  rw [toNat_wordOfBytes]
  simp only [BitVec.extractLsb'_toNat, Nat.shiftRight_eq_div_pow]
  have := w.isLt
  omega

end Sys2Proof
end

