-- ==== Sys2Proof/Laws/State.lean ====
section
/-! SUPPORT. One lemma per field of State and per state update of Sys2Proof/Machine/Ops.lean, each true by rfl. -/

namespace Sys2Proof.Machine

section setV

variable (s : State) (x : Reg) (b : Byte)

@[simp] theorem State.setV_v : (s.setV x b).v = s.v.set x.val b := rfl
@[simp] theorem State.setV_pc : (s.setV x b).pc = s.pc := rfl
@[simp] theorem State.setV_idx : (s.setV x b).idx = s.idx := rfl
@[simp] theorem State.setV_sp : (s.setV x b).sp = s.sp := rfl
@[simp] theorem State.setV_stack : (s.setV x b).stack = s.stack := rfl
@[simp] theorem State.setV_dt : (s.setV x b).dt = s.dt := rfl
@[simp] theorem State.setV_st : (s.setV x b).st = s.st := rfl
@[simp] theorem State.setV_lastTick : (s.setV x b).lastTick = s.lastTick := rfl
@[simp] theorem State.setV_mode : (s.setV x b).mode = s.mode := rfl
@[simp] theorem State.setV_fault : (s.setV x b).fault = s.fault := rfl
@[simp] theorem State.setV_mem : (s.setV x b).mem = s.mem := rfl
@[simp] theorem State.setV_display : (s.setV x b).display = s.display := rfl
@[simp] theorem State.setV_keys : (s.setV x b).keys = s.keys := rfl
@[simp] theorem State.setV_now : (s.setV x b).now = s.now := rfl
@[simp] theorem State.setV_rnd : (s.setV x b).rnd = s.rnd := rfl
@[simp] theorem State.setV_stepCount : (s.setV x b).stepCount = s.stepCount := rfl
@[simp] theorem State.setV_renders : (s.setV x b).renders = s.renders := rfl

end setV

section setVWithFlag

variable (s : State) (x : Reg) (b f : Byte)

@[simp] theorem State.setVWithFlag_v : (s.setVWithFlag x b f).v = (s.v.set x.val b).set regF.val f := rfl
@[simp] theorem State.setVWithFlag_pc : (s.setVWithFlag x b f).pc = s.pc := rfl
@[simp] theorem State.setVWithFlag_idx : (s.setVWithFlag x b f).idx = s.idx := rfl
@[simp] theorem State.setVWithFlag_sp : (s.setVWithFlag x b f).sp = s.sp := rfl
@[simp] theorem State.setVWithFlag_stack : (s.setVWithFlag x b f).stack = s.stack := rfl
@[simp] theorem State.setVWithFlag_dt : (s.setVWithFlag x b f).dt = s.dt := rfl
@[simp] theorem State.setVWithFlag_st : (s.setVWithFlag x b f).st = s.st := rfl
@[simp] theorem State.setVWithFlag_lastTick : (s.setVWithFlag x b f).lastTick = s.lastTick := rfl
@[simp] theorem State.setVWithFlag_mode : (s.setVWithFlag x b f).mode = s.mode := rfl
@[simp] theorem State.setVWithFlag_fault : (s.setVWithFlag x b f).fault = s.fault := rfl
@[simp] theorem State.setVWithFlag_mem : (s.setVWithFlag x b f).mem = s.mem := rfl
@[simp] theorem State.setVWithFlag_display : (s.setVWithFlag x b f).display = s.display := rfl
@[simp] theorem State.setVWithFlag_keys : (s.setVWithFlag x b f).keys = s.keys := rfl
@[simp] theorem State.setVWithFlag_now : (s.setVWithFlag x b f).now = s.now := rfl
@[simp] theorem State.setVWithFlag_rnd : (s.setVWithFlag x b f).rnd = s.rnd := rfl
@[simp] theorem State.setVWithFlag_stepCount : (s.setVWithFlag x b f).stepCount = s.stepCount := rfl
@[simp] theorem State.setVWithFlag_renders : (s.setVWithFlag x b f).renders = s.renders := rfl

end setVWithFlag

section setPc

variable (s : State) (a : Word)

@[simp] theorem State.setPc_v : (s.setPc a).v = s.v := rfl
@[simp] theorem State.setPc_pc : (s.setPc a).pc = a := rfl
@[simp] theorem State.setPc_idx : (s.setPc a).idx = s.idx := rfl
@[simp] theorem State.setPc_sp : (s.setPc a).sp = s.sp := rfl
@[simp] theorem State.setPc_stack : (s.setPc a).stack = s.stack := rfl
@[simp] theorem State.setPc_dt : (s.setPc a).dt = s.dt := rfl
@[simp] theorem State.setPc_st : (s.setPc a).st = s.st := rfl
@[simp] theorem State.setPc_lastTick : (s.setPc a).lastTick = s.lastTick := rfl
@[simp] theorem State.setPc_mode : (s.setPc a).mode = s.mode := rfl
@[simp] theorem State.setPc_fault : (s.setPc a).fault = s.fault := rfl
@[simp] theorem State.setPc_mem : (s.setPc a).mem = s.mem := rfl
@[simp] theorem State.setPc_display : (s.setPc a).display = s.display := rfl
@[simp] theorem State.setPc_keys : (s.setPc a).keys = s.keys := rfl
@[simp] theorem State.setPc_now : (s.setPc a).now = s.now := rfl
@[simp] theorem State.setPc_rnd : (s.setPc a).rnd = s.rnd := rfl
@[simp] theorem State.setPc_stepCount : (s.setPc a).stepCount = s.stepCount := rfl
@[simp] theorem State.setPc_renders : (s.setPc a).renders = s.renders := rfl

end setPc

section advance

variable (s : State)

@[simp] theorem State.advance_v : s.advance.v = s.v := rfl
@[simp] theorem State.advance_pc : s.advance.pc = s.pc + 2#16 := rfl
@[simp] theorem State.advance_idx : s.advance.idx = s.idx := rfl
@[simp] theorem State.advance_sp : s.advance.sp = s.sp := rfl
@[simp] theorem State.advance_stack : s.advance.stack = s.stack := rfl
@[simp] theorem State.advance_dt : s.advance.dt = s.dt := rfl
@[simp] theorem State.advance_st : s.advance.st = s.st := rfl
@[simp] theorem State.advance_lastTick : s.advance.lastTick = s.lastTick := rfl
@[simp] theorem State.advance_mode : s.advance.mode = s.mode := rfl
@[simp] theorem State.advance_fault : s.advance.fault = s.fault := rfl
@[simp] theorem State.advance_mem : s.advance.mem = s.mem := rfl
@[simp] theorem State.advance_display : s.advance.display = s.display := rfl
@[simp] theorem State.advance_keys : s.advance.keys = s.keys := rfl
@[simp] theorem State.advance_now : s.advance.now = s.now := rfl
@[simp] theorem State.advance_rnd : s.advance.rnd = s.rnd := rfl
@[simp] theorem State.advance_stepCount : s.advance.stepCount = s.stepCount := rfl
@[simp] theorem State.advance_renders : s.advance.renders = s.renders := rfl

end advance

section skipIf

variable (s : State) (c : Bool)

@[simp] theorem State.skipIf_v : (s.skipIf c).v = s.v := rfl
@[simp] theorem State.skipIf_pc : (s.skipIf c).pc = s.pc + (if c then 4#16 else 2#16) := rfl
@[simp] theorem State.skipIf_idx : (s.skipIf c).idx = s.idx := rfl
@[simp] theorem State.skipIf_sp : (s.skipIf c).sp = s.sp := rfl
@[simp] theorem State.skipIf_stack : (s.skipIf c).stack = s.stack := rfl
@[simp] theorem State.skipIf_dt : (s.skipIf c).dt = s.dt := rfl
@[simp] theorem State.skipIf_st : (s.skipIf c).st = s.st := rfl
@[simp] theorem State.skipIf_lastTick : (s.skipIf c).lastTick = s.lastTick := rfl
@[simp] theorem State.skipIf_mode : (s.skipIf c).mode = s.mode := rfl
@[simp] theorem State.skipIf_fault : (s.skipIf c).fault = s.fault := rfl
@[simp] theorem State.skipIf_mem : (s.skipIf c).mem = s.mem := rfl
@[simp] theorem State.skipIf_display : (s.skipIf c).display = s.display := rfl
@[simp] theorem State.skipIf_keys : (s.skipIf c).keys = s.keys := rfl
@[simp] theorem State.skipIf_now : (s.skipIf c).now = s.now := rfl
@[simp] theorem State.skipIf_rnd : (s.skipIf c).rnd = s.rnd := rfl
@[simp] theorem State.skipIf_stepCount : (s.skipIf c).stepCount = s.stepCount := rfl
@[simp] theorem State.skipIf_renders : (s.skipIf c).renders = s.renders := rfl

end skipIf

section setIdx

variable (s : State) (a : Word)

@[simp] theorem State.setIdx_v : (s.setIdx a).v = s.v := rfl
@[simp] theorem State.setIdx_pc : (s.setIdx a).pc = s.pc := rfl
@[simp] theorem State.setIdx_idx : (s.setIdx a).idx = a := rfl
@[simp] theorem State.setIdx_sp : (s.setIdx a).sp = s.sp := rfl
@[simp] theorem State.setIdx_stack : (s.setIdx a).stack = s.stack := rfl
@[simp] theorem State.setIdx_dt : (s.setIdx a).dt = s.dt := rfl
@[simp] theorem State.setIdx_st : (s.setIdx a).st = s.st := rfl
@[simp] theorem State.setIdx_lastTick : (s.setIdx a).lastTick = s.lastTick := rfl
@[simp] theorem State.setIdx_mode : (s.setIdx a).mode = s.mode := rfl
@[simp] theorem State.setIdx_fault : (s.setIdx a).fault = s.fault := rfl
@[simp] theorem State.setIdx_mem : (s.setIdx a).mem = s.mem := rfl
@[simp] theorem State.setIdx_display : (s.setIdx a).display = s.display := rfl
@[simp] theorem State.setIdx_keys : (s.setIdx a).keys = s.keys := rfl
@[simp] theorem State.setIdx_now : (s.setIdx a).now = s.now := rfl
@[simp] theorem State.setIdx_rnd : (s.setIdx a).rnd = s.rnd := rfl
@[simp] theorem State.setIdx_stepCount : (s.setIdx a).stepCount = s.stepCount := rfl
@[simp] theorem State.setIdx_renders : (s.setIdx a).renders = s.renders := rfl

end setIdx

section halt

variable (s : State) (k : Cause) (o : Option Word) (n : Nat)

@[simp] theorem State.halt_v : (s.halt k o n).v = s.v := rfl
@[simp] theorem State.halt_pc : (s.halt k o n).pc = s.pc := rfl
@[simp] theorem State.halt_idx : (s.halt k o n).idx = s.idx := rfl
@[simp] theorem State.halt_sp : (s.halt k o n).sp = s.sp := rfl
@[simp] theorem State.halt_stack : (s.halt k o n).stack = s.stack := rfl
@[simp] theorem State.halt_dt : (s.halt k o n).dt = s.dt := rfl
@[simp] theorem State.halt_st : (s.halt k o n).st = s.st := rfl
@[simp] theorem State.halt_lastTick : (s.halt k o n).lastTick = s.lastTick := rfl
@[simp] theorem State.halt_mode : (s.halt k o n).mode = .halted := rfl
@[simp] theorem State.halt_fault : (s.halt k o n).fault = some ⟨k, s.pc, o, n⟩ := rfl
@[simp] theorem State.halt_mem : (s.halt k o n).mem = s.mem := rfl
@[simp] theorem State.halt_display : (s.halt k o n).display = s.display := rfl
@[simp] theorem State.halt_keys : (s.halt k o n).keys = s.keys := rfl
@[simp] theorem State.halt_now : (s.halt k o n).now = s.now := rfl
@[simp] theorem State.halt_rnd : (s.halt k o n).rnd = s.rnd := rfl
@[simp] theorem State.halt_stepCount : (s.halt k o n).stepCount = s.stepCount := rfl
@[simp] theorem State.halt_renders : (s.halt k o n).renders = s.renders := rfl

end halt

section emitRender

variable (s : State)

@[simp] theorem State.emitRender_v : s.emitRender.v = s.v := rfl
@[simp] theorem State.emitRender_pc : s.emitRender.pc = s.pc := rfl
@[simp] theorem State.emitRender_idx : s.emitRender.idx = s.idx := rfl
@[simp] theorem State.emitRender_sp : s.emitRender.sp = s.sp := rfl
@[simp] theorem State.emitRender_stack : s.emitRender.stack = s.stack := rfl
@[simp] theorem State.emitRender_dt : s.emitRender.dt = s.dt := rfl
@[simp] theorem State.emitRender_st : s.emitRender.st = s.st := rfl
@[simp] theorem State.emitRender_lastTick : s.emitRender.lastTick = s.lastTick := rfl
@[simp] theorem State.emitRender_mode : s.emitRender.mode = s.mode := rfl
@[simp] theorem State.emitRender_fault : s.emitRender.fault = s.fault := rfl
@[simp] theorem State.emitRender_mem : s.emitRender.mem = s.mem := rfl
@[simp] theorem State.emitRender_display : s.emitRender.display = s.display := rfl
@[simp] theorem State.emitRender_keys : s.emitRender.keys = s.keys := rfl
@[simp] theorem State.emitRender_now : s.emitRender.now = s.now := rfl
@[simp] theorem State.emitRender_rnd : s.emitRender.rnd = s.rnd := rfl
@[simp] theorem State.emitRender_stepCount : s.emitRender.stepCount = s.stepCount := rfl
@[simp] theorem State.emitRender_renders : s.emitRender.renders = s.display :: s.renders := rfl

end emitRender

section nextInputs

variable (s : State)

@[simp] theorem State.nextInputs_v : s.nextInputs.v = s.v := rfl
@[simp] theorem State.nextInputs_pc : s.nextInputs.pc = s.pc := rfl
@[simp] theorem State.nextInputs_idx : s.nextInputs.idx = s.idx := rfl
@[simp] theorem State.nextInputs_sp : s.nextInputs.sp = s.sp := rfl
@[simp] theorem State.nextInputs_stack : s.nextInputs.stack = s.stack := rfl
@[simp] theorem State.nextInputs_dt : s.nextInputs.dt = s.dt := rfl
@[simp] theorem State.nextInputs_st : s.nextInputs.st = s.st := rfl
@[simp] theorem State.nextInputs_lastTick : s.nextInputs.lastTick = s.lastTick := rfl
@[simp] theorem State.nextInputs_mode : s.nextInputs.mode = s.mode := rfl
@[simp] theorem State.nextInputs_fault : s.nextInputs.fault = s.fault := rfl
@[simp] theorem State.nextInputs_mem : s.nextInputs.mem = s.mem := rfl
@[simp] theorem State.nextInputs_display : s.nextInputs.display = s.display := rfl
@[simp] theorem State.nextInputs_keys : s.nextInputs.keys = s.keys := rfl
@[simp] theorem State.nextInputs_now : s.nextInputs.now = Config.clockInput (s.stepCount + 1) := rfl
@[simp] theorem State.nextInputs_rnd : s.nextInputs.rnd = Config.randomInput (s.stepCount + 1) := rfl
@[simp] theorem State.nextInputs_stepCount : s.nextInputs.stepCount = s.stepCount + 1 := rfl
@[simp] theorem State.nextInputs_renders : s.nextInputs.renders = s.renders := rfl

end nextInputs

section timerTick

variable (s : State) (p n : Nat)

@[simp] theorem State.timerTick_v : (s.timerTick p n).v = s.v := rfl
@[simp] theorem State.timerTick_pc : (s.timerTick p n).pc = s.pc := rfl
@[simp] theorem State.timerTick_idx : (s.timerTick p n).idx = s.idx := rfl
@[simp] theorem State.timerTick_sp : (s.timerTick p n).sp = s.sp := rfl
@[simp] theorem State.timerTick_stack : (s.timerTick p n).stack = s.stack := rfl
@[simp] theorem State.timerTick_dt : (s.timerTick p n).dt = decayTimer (tickDue p n s.lastTick) s.dt := rfl
@[simp] theorem State.timerTick_st : (s.timerTick p n).st = decayTimer (tickDue p n s.lastTick) s.st := rfl
@[simp] theorem State.timerTick_lastTick : (s.timerTick p n).lastTick = if tickDue p n s.lastTick then n else s.lastTick := rfl
@[simp] theorem State.timerTick_mode : (s.timerTick p n).mode = s.mode := rfl
@[simp] theorem State.timerTick_fault : (s.timerTick p n).fault = s.fault := rfl
@[simp] theorem State.timerTick_mem : (s.timerTick p n).mem = s.mem := rfl
@[simp] theorem State.timerTick_display : (s.timerTick p n).display = s.display := rfl
@[simp] theorem State.timerTick_keys : (s.timerTick p n).keys = s.keys := rfl
@[simp] theorem State.timerTick_now : (s.timerTick p n).now = s.now := rfl
@[simp] theorem State.timerTick_rnd : (s.timerTick p n).rnd = s.rnd := rfl
@[simp] theorem State.timerTick_stepCount : (s.timerTick p n).stepCount = s.stepCount := rfl
@[simp] theorem State.timerTick_renders : (s.timerTick p n).renders = s.renders := rfl

end timerTick

end Sys2Proof.Machine
end

