-- ==== Sys2Proof/Laws/Registers.lean ====
section
/-! SUPPORT. Reading a register after each operation that writes registers. -/

namespace Sys2Proof.Machine

@[simp] theorem State.getV_setV (s : State) (x : Reg) (b : Byte) (r : Reg) :
    (s.setV x b).getV r = if r = x then b else s.getV r := by
  simp only [getV, setV, Vector.getElem_set]
  by_cases h : r = x
  · simp [h]
  · rw [if_neg (fun hv => h (Fin.ext hv.symm)), if_neg h]

@[simp] theorem State.getV_setVWithFlag (s : State) (x : Reg) (b f : Byte) (r : Reg) :
    (s.setVWithFlag x b f).getV r = if r = regF then f else if r = x then b else s.getV r := by
  simp only [setVWithFlag, getV_setV]

/-- Only the registers decide what `getV` reads. -/
theorem State.getV_congr {s t : State} (h : s.v = t.v) (r : Reg) : s.getV r = t.getV r := by
  simp only [getV, h]

@[simp] theorem State.getV_setPc (s : State) (a : Word) (r : Reg) : (s.setPc a).getV r = s.getV r := rfl
@[simp] theorem State.getV_advance (s : State) (r : Reg) : s.advance.getV r = s.getV r := rfl
@[simp] theorem State.getV_skipIf (s : State) (c : Bool) (r : Reg) : (s.skipIf c).getV r = s.getV r := rfl
@[simp] theorem State.getV_setIdx (s : State) (a : Word) (r : Reg) : (s.setIdx a).getV r = s.getV r := rfl
@[simp] theorem State.getV_halt (s : State) (k : Cause) (o : Option Word) (n : Nat) (r : Reg) :
    (s.halt k o n).getV r = s.getV r := rfl
@[simp] theorem State.getV_emitRender (s : State) (r : Reg) : s.emitRender.getV r = s.getV r := rfl
@[simp] theorem State.getV_nextInputs (s : State) (r : Reg) : s.nextInputs.getV r = s.getV r := rfl
@[simp] theorem State.getV_timerTick (s : State) (p n : Nat) (r : Reg) : (s.timerTick p n).getV r = s.getV r := rfl

/-- Writing a run of registers changes the registers and nothing else. -/
theorem State.setVsFrom_eq (s : State) (k : Nat) (bs : List Byte) :
    s.setVsFrom k bs = { s with v := (s.setVsFrom k bs).v } := by
  induction bs generalizing s k with
  | nil => rfl
  | cons b bs ih => unfold setVsFrom; rw [ih]

/-- Register `r` after a run of bytes written from register `k` on. -/
theorem State.getV_setVsFrom (s : State) (k : Nat) (bs : List Byte) (r : Reg) :
    (s.setVsFrom k bs).getV r = if k ≤ r.val then (bs[r.val - k]?).getD (s.getV r) else s.getV r := by
  induction bs generalizing s k with
  | nil => simp [setVsFrom]
  | cons b bs ih =>
    unfold setVsFrom
    rw [ih]
    simp only [getV, Vector.getElem_setIfInBounds]
    by_cases h1 : k + 1 ≤ r.val
    · have h2 : r.val - k = (r.val - (k + 1)) + 1 := by omega
      rw [if_pos h1, if_pos (show k ≤ r.val by omega), if_neg (show ¬ k = r.val by omega), h2, List.getElem?_cons_succ]
    · rw [if_neg h1]
      by_cases h3 : k = r.val
      · subst h3; simp
      · rw [if_neg h3, if_neg (show ¬ k ≤ r.val by omega)]

/-- The registers V0 to Vx as a list: element `k` is register `k`. -/
theorem State.regsUpTo_getElem? (s : State) (x : Reg) (k : Nat) :
    (s.regsUpTo x)[k]? = if h : k ≤ x.val then some (s.getV ⟨k, by omega⟩) else none := by
  unfold regsUpTo
  rw [List.getElem?_take]
  by_cases h : k ≤ x.val
  · rw [if_pos (by omega), dif_pos h]
    have hk : k < 16 := by omega
    simp [getV, hk]
  · rw [if_neg (by omega), dif_neg h]

@[simp] theorem State.length_regsUpTo (s : State) (x : Reg) : (s.regsUpTo x).length = x.val + 1 := by
  simp [regsUpTo]

end Sys2Proof.Machine
end

