-- ==== Sys2Proof/Laws/Ops.lean ====
section
/-! SUPPORT. One lemma for each shared operation that can fail, saying all it can do: push, pop, fetch, the key latch, the lowest
pressed key; and the timer clock as the pseudocode of R620 has it. -/

namespace Sys2Proof.Machine

theorem State.push?_cases (s : State) (a : Word) :
    (s.sp = 16 ∧ s.push? a = none) ∨
      ∃ (h : s.sp.val < 16) (t : State), s.push? a = some t ∧ t.sp.val = s.sp.val + 1 ∧ t.stack = s.stack.set s.sp.val a ∧
        t = { s with stack := t.stack, sp := t.sp } := by
  unfold push?
  by_cases h : s.sp.val < 16
  · exact .inr ⟨h, _, dif_pos h, rfl, rfl, rfl⟩
  · refine .inl ⟨Fin.ext ?_, dif_neg h⟩
    have := s.sp.isLt
    show s.sp.val = 16
    omega

theorem State.pop?_cases (s : State) :
    (s.sp = 0 ∧ s.pop? = none) ∨
      ∃ (h : 0 < s.sp.val) (t : State), s.pop? = some (s.stack[s.sp.val - 1]'(by omega), t) ∧ t.sp.val = s.sp.val - 1 ∧
        t = { s with sp := t.sp } := by
  unfold pop?
  by_cases h : 0 < s.sp.val
  · exact .inr ⟨h, _, dif_pos h, rfl, rfl⟩
  · refine .inl ⟨Fin.ext ?_, dif_neg h⟩
    show s.sp.val = 0
    omega

/-- The fetch reads the two bytes at PC, or reports the lowest bad address. -/
theorem State.fetch_eq (s : State) :
    s.fetch = if s.pc.toNat ≤ 0xFFE then .ok (wordOfBytes (s.mem.byte s.pc.toNat) (s.mem.byte (s.pc.toNat + 1)))
      else .error (max s.pc.toNat 0x1000) := by
  unfold fetch
  rw [Memory.read_eq]
  by_cases h : s.pc.toNat ≤ 0xFFE
  · rw [if_pos h, if_pos (by simp only [Config.memSize]; omega)]
    rfl
  · rw [if_neg h, if_neg (by simp only [Config.memSize]; omega)]
    rfl

theorem State.key?_eq_none_iff (s : State) (k : Nat) : s.key? k = none ↔ 15 < k := by
  simp [key?]; omega

theorem State.key?_of_le (s : State) {k : Nat} (h : k ≤ 15) : s.key? k = some (s.keys[k]'(by omega)) := by
  simp [key?, show k < 16 by omega]

/-- The lowest pressed key: none is pressed, or `k` is pressed and no lower one. -/
theorem State.lowestPressed_cases (s : State) :
    (s.lowestPressed = none ∧ ∀ j, (h : j < 16) → s.keys[j] = false) ∨
      ∃ k, ∃ (h : k < 16), s.lowestPressed = some k ∧ s.keys[k] = true ∧ ∀ j, (hj : j < k) → s.keys[j]'(by omega) = false := by
  unfold lowestPressed
  cases hf : s.keys.toList.findIdx? id with
  | none =>
    left
    refine ⟨rfl, fun j h => ?_⟩
    rw [List.findIdx?_eq_none_iff] at hf
    have := hf (s.keys[j]) (by simp)
    simpa using this
  | some k =>
    right
    rw [List.findIdx?_eq_some_iff_getElem] at hf
    obtain ⟨h, hk, hlow⟩ := hf
    have h16 : k < 16 := by simpa using h
    refine ⟨k, h16, rfl, by simpa using hk, fun j hj => ?_⟩
    simpa using hlow j hj

theorem elapsedTime_eq (now lastTick : Nat) : elapsedTime now lastTick = now - lastTick := by
  unfold elapsedTime; split <;> omega

theorem tickDue_eq (period now lastTick : Nat) : tickDue period now lastTick = decide (period ≤ now - lastTick) := by
  rw [tickDue, elapsedTime_eq]

theorem decayTimer_toNat (due : Bool) (t : Byte) :
    (decayTimer due t).toNat = if due then t.toNat - 1 else t.toNat := by
  unfold decayTimer
  by_cases ht : t = 0#8
  · simp [ht]
  · have hpos : 0 < t.toNat := Nat.pos_of_ne_zero fun h => ht (BitVec.eq_of_toNat_eq h)
    cases due <;> simp [ht]
    have := t.isLt
    omega

end Sys2Proof.Machine
end

