-- ==== Sys2Proof/Laws/Exec.lean ====
section
/-! SUPPORT. One equation for each meaning that can fault: what it does in range, and which fault it raises out of range. -/

namespace Sys2Proof.Machine

theorem execRet_of_pos (s : State) (h : 0 < s.sp.val) :
    execRet s = .next (State.setPc { s with sp := ⟨s.sp.val - 1, by omega⟩ } (s.stack[s.sp.val - 1]'(by omega) + 2#16)) := by
  simp only [execRet, State.pop?, dif_pos h]

theorem execRet_of_zero (s : State) (h : s.sp.val = 0) : execRet s = raise .ret .stackUnderflow 0 s := by
  simp only [execRet, State.pop?, dif_neg (show ¬ 0 < s.sp.val by omega)]

theorem execCall_of_room (nnn : Addr12) (s : State) (h : s.sp.val < 16) :
    execCall nnn s = .next (State.setPc
      { s with stack := s.stack.set s.sp.val s.pc, sp := ⟨s.sp.val + 1, Nat.succ_lt_succ h⟩ } (zext16Addr nnn)) := by
  simp only [execCall, State.push?, dif_pos h]

theorem execCall_of_full (nnn : Addr12) (s : State) (h : s.sp.val = 16) :
    execCall nnn s = raise (.call nnn) .stackOverflow 16 s := by
  simp only [execCall, State.push?, dif_neg (show ¬ s.sp.val < 16 by omega)]

theorem execSkp_of_key (x : Reg) (s : State) (h : (s.getV x).toNat < 16) :
    execSkp x s = .next (s.skipIf s.keys[(s.getV x).toNat]) := by
  simp only [execSkp, s.key?_of_le (show (s.getV x).toNat ≤ 15 by omega)]

theorem execSkp_of_no_key (x : Reg) (s : State) (h : 15 < (s.getV x).toNat) :
    execSkp x s = raise (.skp x) .invalidKeyIndex (s.getV x).toNat s := by
  simp only [execSkp, (s.key?_eq_none_iff _).2 h]

theorem execSknp_of_key (x : Reg) (s : State) (h : (s.getV x).toNat < 16) :
    execSknp x s = .next (s.skipIf !s.keys[(s.getV x).toNat]) := by
  simp only [execSknp, s.key?_of_le (show (s.getV x).toNat ≤ 15 by omega)]

theorem execSknp_of_no_key (x : Reg) (s : State) (h : 15 < (s.getV x).toNat) :
    execSknp x s = raise (.sknp x) .invalidKeyIndex (s.getV x).toNat s := by
  simp only [execSknp, (s.key?_eq_none_iff _).2 h]

theorem execAddI_of_fit (x : Reg) (s : State) (h : s.idx.toNat + (s.getV x).toNat ≤ 0xFFFF) :
    execAddI x s = .next (s.setIdx (s.idx + zext16Byte (s.getV x))).advance := by
  simp only [execAddI, if_neg (show ¬ s.idx.toNat + (s.getV x).toNat > 0xFFFF by omega)]

theorem execAddI_of_excess (x : Reg) (s : State) (h : 0xFFFF < s.idx.toNat + (s.getV x).toNat) :
    execAddI x s = raise (.addI x) .addressOutOfRange (s.idx.toNat + (s.getV x).toNat) s := by
  simp only [execAddI, if_pos (show s.idx.toNat + (s.getV x).toNat > 0xFFFF from h)]

theorem execLdF_of_digit (x : Reg) (s : State) (h : (s.getV x).toNat ≤ 15) :
    execLdF x s = .next (s.setIdx (glyphAddress (s.getV x).toNat)).advance := by
  simp only [execLdF, if_neg (show ¬ (s.getV x).toNat > 15 by omega)]

theorem execLdF_of_no_digit (x : Reg) (s : State) (h : 15 < (s.getV x).toNat) :
    execLdF x s = raise (.ldF x) .addressOutOfRange (s.getV x).toNat s := by
  simp only [execLdF, if_pos (show (s.getV x).toNat > 15 from h)]

theorem execLdVxK_of_pressed (x : Reg) (s : State) {k : Nat} (h : s.lowestPressed = some k) :
    execLdVxK x s = .next (State.advance { s.setV x (BitVec.ofNat 8 k) with mode := .running }) := by
  simp only [execLdVxK, h]

theorem execLdVxK_of_none (x : Reg) (s : State) (h : s.lowestPressed = none) :
    execLdVxK x s = .next { s with mode := .awaitingKey } := by
  simp only [execLdVxK, h]

theorem execLdB_eq (x : Reg) (s : State) :
    execLdB x s = if s.idx.toNat + 3 ≤ 0x1000 then
        .next (State.advance { s with mem := s.mem.writeBytes s.idx.toNat (bcdDigits (s.getV x)) })
      else raise (.ldB x) .addressOutOfRange (max s.idx.toNat 0x1000) s := by
  unfold execLdB
  rw [Memory.store_eq]
  by_cases h : s.idx.toNat + 3 ≤ 0x1000 <;> simp [bcdDigits, Config.memSize, h]

theorem execStRegs_eq (x : Reg) (s : State) :
    execStRegs x s = if s.idx.toNat + (x.val + 1) ≤ 0x1000 then
        .next (State.advance (State.setIdx { s with mem := s.mem.writeBytes s.idx.toNat (s.regsUpTo x) }
          (s.idx + BitVec.ofNat 16 (x.val + 1))))
      else raise (.stRegs x) .addressOutOfRange (max s.idx.toNat 0x1000) s := by
  unfold execStRegs
  rw [Memory.store_eq, State.length_regsUpTo]
  by_cases h : s.idx.toNat + (x.val + 1) ≤ 0x1000 <;> simp [Config.memSize, h]

theorem execLdRegs_eq (x : Reg) (s : State) :
    execLdRegs x s = if s.idx.toNat + (x.val + 1) ≤ 0x1000 then
        .next (State.advance (State.setIdx
          (s.setVsFrom 0 ((List.range (x.val + 1)).map fun k => s.mem.byte (s.idx.toNat + k)))
          (s.idx + BitVec.ofNat 16 (x.val + 1))))
      else raise (.ldRegs x) .addressOutOfRange (max s.idx.toNat 0x1000) s := by
  unfold execLdRegs
  rw [Memory.read_eq]
  by_cases h : s.idx.toNat + (x.val + 1) ≤ 0x1000 <;> simp [Config.memSize, h]

/-- The drawing of `DXYN` in a state: the display and whether it collides. -/
def drawingOf (x y : Reg) (n : Fin 16) (s : State) : Drawing :=
  drawRows (s.getV x).toNat (s.getV y).toNat ((List.range n.val).map fun k => s.mem.byte (s.idx.toNat + k)) (s.display, false)

theorem execDrw_eq (x y : Reg) (n : Fin 16) (s : State) :
    execDrw x y n s = if n.val = 0 ∨ s.idx.toNat + n.val ≤ 0x1000 then
        .next ((State.advance (State.setV { s with display := (drawingOf x y n s).1 } regF
          (collisionFlag (drawingOf x y n s).2))).emitRender)
      else raise (.drw x y n) .addressOutOfRange (max s.idx.toNat 0x1000) s := by
  unfold execDrw
  rw [Memory.read_eq]
  by_cases h : n.val = 0 ∨ s.idx.toNat + n.val ≤ 0x1000
  · rw [if_pos h, if_pos (by simpa [Config.memSize] using h)]
    rfl
  · rw [if_neg h, if_neg (by simpa [Config.memSize] using h)]
    rfl

end Sys2Proof.Machine
end

