-- ==== Sys2Proof/Laws/PerInstr.lean ====
section
/-! SUPPORT. The family RoundTrip: every instruction is well-formed, and its word decodes to it; one lemma per constructor. -/

namespace Sys2Proof.Laws.RoundTrip

/-- The instruction is well-formed (R302, R303), and the decoder reads it from the word the encoder gives it (R304, R305). -/
def Statement (i : Instr) : Prop := i.wellFormed = true ∧ decodeWord (encode i) = some i

theorem cls : Statement .cls :=
  ⟨rfl, rfl⟩
theorem ret : Statement .ret :=
  ⟨rfl, rfl⟩
theorem jp (nnn : Addr12) : Statement (.jp nnn) := by
  constructor
  · simp [Instr.wellFormed, Shape.admits, Instr.shape, Instr.operands, Shape.limits, withinLimits, nnn.isLt]
  · simp [decodeWord, encode]
theorem call (nnn : Addr12) : Statement (.call nnn) := by
  constructor
  · simp [Instr.wellFormed, Shape.admits, Instr.shape, Instr.operands, Shape.limits, withinLimits, nnn.isLt]
  · simp [decodeWord, encode]
theorem seByte (x : Reg) (nn : Byte) : Statement (.seByte x nn) := by
  constructor
  · simp [Instr.wellFormed, Shape.admits, Instr.shape, Instr.operands, Shape.limits, withinLimits, x.isLt, nn.isLt]
  · simp [decodeWord, encode]
theorem sneByte (x : Reg) (nn : Byte) : Statement (.sneByte x nn) := by
  constructor
  · simp [Instr.wellFormed, Shape.admits, Instr.shape, Instr.operands, Shape.limits, withinLimits, x.isLt, nn.isLt]
  · simp [decodeWord, encode]
theorem seReg (x : Reg) (y : Reg) : Statement (.seReg x y) := by
  constructor
  · simp [Instr.wellFormed, Shape.admits, Instr.shape, Instr.operands, Shape.limits, withinLimits, x.isLt, y.isLt]
  · simp [decodeWord, encode]
theorem ldByte (x : Reg) (nn : Byte) : Statement (.ldByte x nn) := by
  constructor
  · simp [Instr.wellFormed, Shape.admits, Instr.shape, Instr.operands, Shape.limits, withinLimits, x.isLt, nn.isLt]
  · simp [decodeWord, encode]
theorem addByte (x : Reg) (nn : Byte) : Statement (.addByte x nn) := by
  constructor
  · simp [Instr.wellFormed, Shape.admits, Instr.shape, Instr.operands, Shape.limits, withinLimits, x.isLt, nn.isLt]
  · simp [decodeWord, encode]
theorem ldReg (x : Reg) (y : Reg) : Statement (.ldReg x y) := by
  constructor
  · simp [Instr.wellFormed, Shape.admits, Instr.shape, Instr.operands, Shape.limits, withinLimits, x.isLt, y.isLt]
  · simp [decodeWord, encode, decodeFamily8]
theorem orReg (x : Reg) (y : Reg) : Statement (.orReg x y) := by
  constructor
  · simp [Instr.wellFormed, Shape.admits, Instr.shape, Instr.operands, Shape.limits, withinLimits, x.isLt, y.isLt]
  · simp [decodeWord, encode, decodeFamily8]
theorem andReg (x : Reg) (y : Reg) : Statement (.andReg x y) := by
  constructor
  · simp [Instr.wellFormed, Shape.admits, Instr.shape, Instr.operands, Shape.limits, withinLimits, x.isLt, y.isLt]
  · simp [decodeWord, encode, decodeFamily8]
theorem xorReg (x : Reg) (y : Reg) : Statement (.xorReg x y) := by
  constructor
  · simp [Instr.wellFormed, Shape.admits, Instr.shape, Instr.operands, Shape.limits, withinLimits, x.isLt, y.isLt]
  · simp [decodeWord, encode, decodeFamily8]
theorem addReg (x : Reg) (y : Reg) : Statement (.addReg x y) := by
  constructor
  · simp [Instr.wellFormed, Shape.admits, Instr.shape, Instr.operands, Shape.limits, withinLimits, x.isLt, y.isLt]
  · simp [decodeWord, encode, decodeFamily8]
theorem subReg (x : Reg) (y : Reg) : Statement (.subReg x y) := by
  constructor
  · simp [Instr.wellFormed, Shape.admits, Instr.shape, Instr.operands, Shape.limits, withinLimits, x.isLt, y.isLt]
  · simp [decodeWord, encode, decodeFamily8]
theorem shrReg (x : Reg) (y : Reg) : Statement (.shrReg x y) := by
  constructor
  · simp [Instr.wellFormed, Shape.admits, Instr.shape, Instr.operands, Shape.limits, withinLimits, x.isLt, y.isLt]
  · simp [decodeWord, encode, decodeFamily8]
theorem subnReg (x : Reg) (y : Reg) : Statement (.subnReg x y) := by
  constructor
  · simp [Instr.wellFormed, Shape.admits, Instr.shape, Instr.operands, Shape.limits, withinLimits, x.isLt, y.isLt]
  · simp [decodeWord, encode, decodeFamily8]
theorem shlReg (x : Reg) (y : Reg) : Statement (.shlReg x y) := by
  constructor
  · simp [Instr.wellFormed, Shape.admits, Instr.shape, Instr.operands, Shape.limits, withinLimits, x.isLt, y.isLt]
  · simp [decodeWord, encode, decodeFamily8]
theorem sneReg (x : Reg) (y : Reg) : Statement (.sneReg x y) := by
  constructor
  · simp [Instr.wellFormed, Shape.admits, Instr.shape, Instr.operands, Shape.limits, withinLimits, x.isLt, y.isLt]
  · simp [decodeWord, encode]
theorem ldI (nnn : Addr12) : Statement (.ldI nnn) := by
  constructor
  · simp [Instr.wellFormed, Shape.admits, Instr.shape, Instr.operands, Shape.limits, withinLimits, nnn.isLt]
  · simp [decodeWord, encode]
theorem jpV0 (nnn : Addr12) : Statement (.jpV0 nnn) := by
  constructor
  · simp [Instr.wellFormed, Shape.admits, Instr.shape, Instr.operands, Shape.limits, withinLimits, nnn.isLt]
  · simp [decodeWord, encode]
theorem rnd (x : Reg) (nn : Byte) : Statement (.rnd x nn) := by
  constructor
  · simp [Instr.wellFormed, Shape.admits, Instr.shape, Instr.operands, Shape.limits, withinLimits, x.isLt, nn.isLt]
  · simp [decodeWord, encode]
theorem drw (x : Reg) (y : Reg) (n : Fin 16) : Statement (.drw x y n) := by
  constructor
  · simp [Instr.wellFormed, Shape.admits, Instr.shape, Instr.operands, Shape.limits, withinLimits, x.isLt, y.isLt, n.isLt]
  · simp [decodeWord, encode]
theorem skp (x : Reg) : Statement (.skp x) := by
  constructor
  · simp [Instr.wellFormed, Shape.admits, Instr.shape, Instr.operands, Shape.limits, withinLimits, x.isLt]
  · simp [decodeWord, encode]
theorem sknp (x : Reg) : Statement (.sknp x) := by
  constructor
  · simp [Instr.wellFormed, Shape.admits, Instr.shape, Instr.operands, Shape.limits, withinLimits, x.isLt]
  · simp [decodeWord, encode]
theorem ldVxDT (x : Reg) : Statement (.ldVxDT x) := by
  constructor
  · simp [Instr.wellFormed, Shape.admits, Instr.shape, Instr.operands, Shape.limits, withinLimits, x.isLt]
  · simp [decodeWord, encode, decodeFamilyF]
theorem ldVxK (x : Reg) : Statement (.ldVxK x) := by
  constructor
  · simp [Instr.wellFormed, Shape.admits, Instr.shape, Instr.operands, Shape.limits, withinLimits, x.isLt]
  · simp [decodeWord, encode, decodeFamilyF]
theorem ldDTVx (x : Reg) : Statement (.ldDTVx x) := by
  constructor
  · simp [Instr.wellFormed, Shape.admits, Instr.shape, Instr.operands, Shape.limits, withinLimits, x.isLt]
  · simp [decodeWord, encode, decodeFamilyF]
theorem ldSTVx (x : Reg) : Statement (.ldSTVx x) := by
  constructor
  · simp [Instr.wellFormed, Shape.admits, Instr.shape, Instr.operands, Shape.limits, withinLimits, x.isLt]
  · simp [decodeWord, encode, decodeFamilyF]
theorem addI (x : Reg) : Statement (.addI x) := by
  constructor
  · simp [Instr.wellFormed, Shape.admits, Instr.shape, Instr.operands, Shape.limits, withinLimits, x.isLt]
  · simp [decodeWord, encode, decodeFamilyF]
theorem ldF (x : Reg) : Statement (.ldF x) := by
  constructor
  · simp [Instr.wellFormed, Shape.admits, Instr.shape, Instr.operands, Shape.limits, withinLimits, x.isLt]
  · simp [decodeWord, encode, decodeFamilyF]
theorem ldB (x : Reg) : Statement (.ldB x) := by
  constructor
  · simp [Instr.wellFormed, Shape.admits, Instr.shape, Instr.operands, Shape.limits, withinLimits, x.isLt]
  · simp [decodeWord, encode, decodeFamilyF]
theorem stRegs (x : Reg) : Statement (.stRegs x) := by
  constructor
  · simp [Instr.wellFormed, Shape.admits, Instr.shape, Instr.operands, Shape.limits, withinLimits, x.isLt]
  · simp [decodeWord, encode, decodeFamilyF]
theorem ldRegs (x : Reg) : Statement (.ldRegs x) := by
  constructor
  · simp [Instr.wellFormed, Shape.admits, Instr.shape, Instr.operands, Shape.limits, withinLimits, x.isLt]
  · simp [decodeWord, encode, decodeFamilyF]

end Sys2Proof.Laws.RoundTrip
end

