-- ==== Sys2Proof/Tests/Slice0.lean ====
section
/-! SUPPORT. Tests. Every expected result comes from the spec: the vectors L1 and L2 of 95_test_vectors.md, named in each comment, or the
examples of the instruction's rule. After them, for each obligation with hypotheses, concrete states and operands that meet them. -/

set_option Elab.async false

namespace Sys2Proof.Tests.Slice0

open Sys2Proof.Machine

/-! ## Well-formed operands: the check refuses each ill-formed list (R302, R303, R309) -/

theorem test_wf_register_out_of_range : Shape.reg.admits [16] = false := by decide
theorem test_wf_address_out_of_range : Shape.addr.admits [4096] = false := by decide
theorem test_wf_byte_out_of_range : Shape.regImm8.admits [0, 256] = false := by decide
theorem test_wf_second_register_out_of_range : Shape.regReg.admits [0, 16] = false := by decide
theorem test_wf_row_count_out_of_range : Shape.regRegImm4.admits [0, 0, 16] = false := by decide
theorem test_wf_operand_count : Shape.none.admits [0] = false ∧ Shape.reg.admits [] = false ∧ Shape.regReg.admits [1, 2, 3] = false := by decide
theorem test_wf_accepts_the_limits : Shape.regRegImm4.admits [15, 15, 15] = true ∧ Shape.addr.admits [4095] = true := by decide

/-! ## Decoding: each constructor from a word written out by its pattern in R304 -/

theorem test_decode_flow :
    decodeWord 0x00E0#16 = some .cls ∧ decodeWord 0x00EE#16 = some .ret ∧ decodeWord 0x1ABC#16 = some (.jp 0xABC#12) ∧
    decodeWord 0x2238#16 = some (.call 0x238#12) ∧ decodeWord 0xB3C5#16 = some (.jpV0 0x3C5#12) := by decide

theorem test_decode_skips :
    decodeWord 0x3A7B#16 = some (.seByte 0xA 0x7B#8) ∧ decodeWord 0x4B8C#16 = some (.sneByte 0xB 0x8C#8) ∧
    decodeWord 0x5120#16 = some (.seReg 1 2) ∧ decodeWord 0x9AB0#16 = some (.sneReg 0xA 0xB) ∧
    decodeWord 0xE39E#16 = some (.skp 3) ∧ decodeWord 0xE5A1#16 = some (.sknp 5) := by decide

theorem test_decode_register_ops :
    decodeWord 0x6A7B#16 = some (.ldByte 0xA 0x7B#8) ∧ decodeWord 0x70FF#16 = some (.addByte 0 0xFF#8) ∧
    decodeWord 0x8120#16 = some (.ldReg 1 2) ∧ decodeWord 0x8341#16 = some (.orReg 3 4) ∧
    decodeWord 0x8562#16 = some (.andReg 5 6) ∧ decodeWord 0x8783#16 = some (.xorReg 7 8) := by decide

theorem test_decode_flag_ops :
    decodeWord 0x8454#16 = some (.addReg 4 5) ∧ decodeWord 0x8F15#16 = some (.subReg 0xF 1) ∧
    decodeWord 0x8016#16 = some (.shrReg 0 1) ∧ decodeWord 0x8BC7#16 = some (.subnReg 0xB 0xC) ∧
    decodeWord 0x801E#16 = some (.shlReg 0 1) := by decide

theorem test_decode_index_random_draw :
    decodeWord 0xA300#16 = some (.ldI 0x300#12) ∧ decodeWord 0xC30F#16 = some (.rnd 3 0x0F#8) ∧
    decodeWord 0xD125#16 = some (.drw 1 2 5) ∧ decodeWord 0xD120#16 = some (.drw 1 2 0) := by decide

theorem test_decode_family_F :
    decodeWord 0xF307#16 = some (.ldVxDT 3) ∧ decodeWord 0xF10A#16 = some (.ldVxK 1) ∧ decodeWord 0xF215#16 = some (.ldDTVx 2) ∧
    decodeWord 0xF418#16 = some (.ldSTVx 4) ∧ decodeWord 0xF51E#16 = some (.addI 5) ∧ decodeWord 0xF629#16 = some (.ldF 6) ∧
    decodeWord 0xFA33#16 = some (.ldB 0xA) ∧ decodeWord 0xF255#16 = some (.stRegs 2) ∧ decodeWord 0xFF65#16 = some (.ldRegs 0xF) := by
  decide

/-- L2-E1, E3, E5, E7, E8, E9, E11, E12, E14. -/
theorem test_decode_illegal :
    [0x0000#16, 0x00E1#16, 0x0123#16, 0x5121#16, 0x800F#16, 0x8008#16, 0x912F#16, 0xE09F#16, 0xF000#16].map decodeWord
      = List.replicate 9 none := by decide

theorem test_decode_bytes :
    decode [0x22#8, 0x38#8, 0xFF#8] = .ok (.call 0x238#12, [0xFF#8]) ∧ decode [0x00#8] = .error .truncated ∧
    decode [0x80#8, 0x08#8] = .error (.unknownOpcode 0x8008#16) := by decide

theorem test_decode_table_word :
    decodeTableWord 16 0xD125 = some (.drw 1 2 5) ∧ decodeTableWord 16 0x8008 = none ∧
    decodeTableWord 8 0xE0 = some .cls := by decide

theorem test_encode_words :
    encode (.call 0x238#12) = 0x2238#16 ∧ encode (.subReg 4 5) = 0x8455#16 ∧ encode (.ldB 0xA) = 0xFA33#16 ∧
    encode (.drw 1 2 5) = 0xD125#16 := by decide

/-! ## One step of each instruction, from reset with some registers set and the word under the fetch -/

/-- The reset state with the registers of the list set. -/
def withRegs (rs : List (Reg × Byte)) : State := rs.foldl (fun s p => s.setV p.1 p.2) State.reset

/-- `f` of the state after one step that runs the word. -/
def ran {α : Type} (s : State) (w : Nat) (f : State → α) : Option α :=
  match step (s.withFetchWord 16 w) with
  | .next t => some (f t)
  | .fault _ => none
  | .refused _ => none

/-- The reset state with pixel (0, 0) set. -/
def dotted : State := { State.reset with display := State.reset.display.setPixel 0 0 true }

/-- The reset state with one key pressed. -/
def withKey (k : Nat) : State := setKey k true State.reset

/-- L2-C1. -/
theorem test_cls : ran { dotted with v := dotted.v.set 15 0x55#8 } 0x00E0 (fun t => (t.display.pixel 0 0, t.pc, t.getV 15, t.renders.length))
    = some (false, 0x202#16, 0x55#8, 0) := by decide +kernel

/-- L2-C8: the entry stays, and PC goes past the call. -/
theorem test_ret : ran { State.reset with sp := 3, stack := State.reset.stack.set 2 0x456#16 } 0x00EE (fun t => (t.sp, t.pc, t.stack[2]))
    = some (2, 0x458#16, 0x456#16) := by decide +kernel

/-- L2-C7. -/
theorem test_ret_underflow : ran State.reset 0x00EE (fun t => (t.mode, t.pc, t.fault))
    = some (.halted, 0x200#16, some ⟨.stackUnderflow, 0x200#16, some 0x00EE#16, 0⟩) := by decide +kernel

/-- L2-C2. -/
theorem test_jp : ran State.reset 0x1ABC State.pc = some 0xABC#16 := by decide +kernel

/-- L2-C5. -/
theorem test_call : ran { State.reset with sp := 15 } 0x2400 (fun t => (t.stack[15], t.sp, t.pc)) = some (0x200#16, 16, 0x400#16) := by
  decide +kernel

/-- L2-F7. -/
theorem test_call_overflow : ran { withRegs [(15, 0x33)] with sp := 16 } 0x2300 (fun t => (t.sp, t.getV 15, t.mode, t.fault))
    = some (16, 0x33#8, .halted, some ⟨.stackOverflow, 0x200#16, some 0x2300#16, 16⟩) := by decide +kernel

/-- R404, its example: no wrap at 12 bits. -/
theorem test_jpV0 : ran (withRegs [(0, 0x20)]) 0xBFF0 State.pc = some 0x1010#16 := by decide +kernel

/-- L2-S1, L2-S2. -/
theorem test_seByte : ran (withRegs [(10, 0x7B)]) 0x3A7B State.pc = some 0x204#16 ∧ ran (withRegs [(10, 0x7C)]) 0x3A7B State.pc = some 0x202#16 := by
  decide +kernel

/-- L2-S3, L2-S4. -/
theorem test_sneByte : ran (withRegs [(10, 0x7B)]) 0x4A7B State.pc = some 0x202#16 ∧ ran State.reset 0x4A7B State.pc = some 0x204#16 := by
  decide +kernel

/-- L2-S5, and 0x11 against 0x12. -/
theorem test_seReg : ran (withRegs [(10, 0x11), (11, 0x11)]) 0x5AB0 State.pc = some 0x204#16 ∧
    ran (withRegs [(10, 0x11), (11, 0x12)]) 0x5AB0 State.pc = some 0x202#16 := by decide +kernel

/-- L2-S6, L2-S7. -/
theorem test_sneReg : ran (withRegs [(10, 0x11), (11, 0x12)]) 0x9AB0 State.pc = some 0x204#16 ∧
    ran (withRegs [(10, 0x11), (11, 0x11)]) 0x9AB0 State.pc = some 0x202#16 := by decide +kernel

/-- L2-S8, L2-S9. -/
theorem test_skp : ran ((withKey 7).setV 3 7) 0xE39E State.pc = some 0x204#16 ∧ ran (withRegs [(3, 7)]) 0xE39E State.pc = some 0x202#16 := by
  decide +kernel

/-- L2-S11. -/
theorem test_skp_bad_index : ran (withRegs [(3, 0x10)]) 0xE39E State.fault = some (some ⟨.invalidKeyIndex, 0x200#16, some 0xE39E#16, 0x10⟩) := by
  decide +kernel

/-- L2-S10, and the pressed key. -/
theorem test_sknp : ran (withRegs [(3, 7)]) 0xE3A1 State.pc = some 0x204#16 ∧ ran ((withKey 7).setV 3 7) 0xE3A1 State.pc = some 0x202#16 := by
  decide +kernel

/-- L2-S12. -/
theorem test_sknp_bad_index : ran (withRegs [(3, 0xFF)]) 0xE3A1 State.fault = some (some ⟨.invalidKeyIndex, 0x200#16, some 0xE3A1#16, 0xFF⟩) := by
  decide +kernel

/-- L2-R1. -/
theorem test_ldByte : ran State.reset 0x6A7B (fun t => (t.getV 10, t.pc)) = some (0x7B#8, 0x202#16) := by decide +kernel

/-- L2-R2. -/
theorem test_addByte : ran (withRegs [(0, 0xFF), (15, 0x55)]) 0x7001 (fun t => (t.getV 0, t.getV 15)) = some (0x00#8, 0x55#8) := by
  decide +kernel

/-- L2-R4. -/
theorem test_ldReg : ran (withRegs [(1, 0x33)]) 0x8010 (fun t => (t.getV 0, t.getV 1)) = some (0x33#8, 0x33#8) := by decide +kernel

/-- L2-R5. -/
theorem test_orReg : ran (withRegs [(0, 0xF0), (1, 0x0F), (15, 0x77)]) 0x8011 (fun t => (t.getV 0, t.getV 15)) = some (0xFF#8, 0x77#8) := by
  decide +kernel

/-- L2-R6. -/
theorem test_andReg : ran (withRegs [(0, 0xF0), (1, 0x3C), (15, 0x77)]) 0x8012 (fun t => (t.getV 0, t.getV 15)) = some (0x30#8, 0x77#8) := by
  decide +kernel

/-- L2-R7, and 0xF0 with 0x3C. -/
theorem test_xorReg : ran (withRegs [(0, 0xAB)]) 0x8003 (State.getV · 0) = some 0x00#8 ∧
    ran (withRegs [(0, 0xF0), (1, 0x3C)]) 0x8013 (State.getV · 0) = some 0xCC#8 := by decide +kernel

/-- L1-5. -/
theorem test_addReg : ran (withRegs [(4, 0xFF), (5, 0x64)]) 0x8454 (fun t => (t.getV 4, t.getV 15)) = some (0x63#8, 1#8) := by decide +kernel

/-- L2-R11, L2-R12. -/
theorem test_addReg_VF : ran (withRegs [(15, 0x10), (1, 0xF0)]) 0x8F14 (State.getV · 15) = some 1#8 ∧
    ran (withRegs [(0, 0xFF), (15, 0x01)]) 0x80F4 (fun t => (t.getV 0, t.getV 15)) = some (0x00#8, 1#8) := by decide +kernel

/-- L1-6, L2-R13. -/
theorem test_subReg : ran (withRegs [(4, 0x64), (5, 0xFF)]) 0x8455 (fun t => (t.getV 4, t.getV 15)) = some (0x65#8, 1#8) ∧
    ran (withRegs [(0, 5), (1, 5)]) 0x8015 (fun t => (t.getV 0, t.getV 15)) = some (0x00#8, 0#8) := by decide +kernel

/-- L2-R19, L2-R21. -/
theorem test_shrReg : ran (withRegs [(1, 0xFF)]) 0x8016 (fun t => (t.getV 0, t.getV 15)) = some (0x7F#8, 0x01#8) ∧
    ran (withRegs [(1, 0x04)]) 0x8F16 (State.getV · 15) = some 0x00#8 := by decide +kernel

/-- L2-R17, L2-R18. -/
theorem test_subnReg : ran (withRegs [(0, 1)]) 0x8017 (fun t => (t.getV 0, t.getV 15)) = some (0xFF#8, 1#8) ∧
    ran (withRegs [(4, 0x64), (5, 0xFF)]) 0x8457 (fun t => (t.getV 4, t.getV 15)) = some (0x9B#8, 0#8) := by decide +kernel

/-- L2-R22, L2-R24. -/
theorem test_shlReg : ran (withRegs [(1, 0x81)]) 0x801E (fun t => (t.getV 0, t.getV 15)) = some (0x02#8, 0x80#8) ∧
    ran (withRegs [(1, 0x40)]) 0x8F1E (State.getV · 15) = some 0x00#8 := by decide +kernel

/-- L2-M1. -/
theorem test_ldI : ran State.reset 0xAFFF State.idx = some 0xFFF#16 := by decide +kernel

/-- L2-X1, for the draw 0xAB. -/
theorem test_rnd : ran { State.reset with rnd := 0xAB } 0xC0F0 (State.getV · 0) = some 0xA0#8 := by decide +kernel

/-- L2-D3: both axes wrap. -/
theorem test_drw_wraps :
    ran { withRegs [(0, 0x3E), (1, 0x1F)] with idx := 0x300#16, mem := [(0x300, 0xFF#8), (0x301, 0xFF#8)] } 0xD012
      (fun t => ((t.display.pixel 31 62, t.display.pixel 31 61, t.display.pixel 0 5, t.display.pixel 0 6), (t.display.pixel 1 0, t.getV 15)))
      = some ((true, false, true, false), (false, 0#8)) := by decide +kernel

/-- L2-D5: a flip of a set pixel collides. -/
theorem test_drw_collides :
    ran { dotted with idx := 0x300#16, mem := [(0x300, 0xC0#8)] } 0xD011
      (fun t => (t.display.pixel 0 0, t.display.pixel 0 1, t.getV 15, t.renders.length)) = some (false, true, 1#8, 1) := by decide +kernel

/-- L2-T2, at a clock that does not move, and L2-T1, each through the clock and the instruction. -/
theorem test_ldVxDT :
    (match exec (.ldVxDT 3) (State.timerTick { State.reset with dt := 0x1E#8, lastTick := 5 } 10 5) with
      | .next t => some (t.getV 3, t.dt) | .fault _ => none | .refused _ => none) = some (0x1E#8, 0x1E#8) ∧
    (match exec (.ldVxDT 3) (State.timerTick { State.reset with dt := 0x1E#8, st := 5#8, lastTick := 5 } 10 15) with
      | .next t => some (t.getV 3, t.st) | .fault _ => none | .refused _ => none) = some (0x1D#8, 0x04#8) := by decide +kernel

/-- L2-T11. -/
theorem test_ldVxK : ran (setKey 15 true (withKey 0)) 0xF50A (fun t => (t.getV 5, t.pc, t.mode)) = some (0#8, 0x202#16, .running) ∧
    ran (withKey 2) 0xFF0A (State.getV · 15) = some 2#8 := by decide +kernel

/-- L1-9, its first step. -/
theorem test_ldVxK_waits : ran State.reset 0xF30A (fun t => (t.pc, t.mode, t.getV 3)) = some (0x200#16, .awaitingKey, 0#8) := by decide +kernel

/-- R522, its example. -/
theorem test_ldDTVx : ran (withRegs [(0, 30)]) 0xF015 (fun t => (t.dt, t.st)) = some (30#8, 0#8) := by decide +kernel

/-- R523, its example; L2-T10. -/
theorem test_ldSTVx : ran (withRegs [(0, 30)]) 0xF018 (fun t => (t.st, t.dt)) = some (30#8, 0#8) ∧
    ran (withRegs [(0, 2)]) 0xF018 shouldPlaySound = some true := by decide +kernel

/-- L2-M2, L2-M3. -/
theorem test_addI : ran { withRegs [(0, 1)] with idx := 0xFFF#16 } 0xF01E (fun t => (t.idx, t.mode)) = some (0x1000#16, .running) ∧
    ran { withRegs [(0, 1)] with idx := 0xFFFF#16 } 0xF01E (fun t => (t.idx, t.fault))
      = some (0xFFFF#16, some ⟨.addressOutOfRange, 0x200#16, some 0xF01E#16, 0x10000⟩) := by decide +kernel

/-- L2-M5, L2-M6. -/
theorem test_ldF : ran (withRegs [(0, 0x0F)]) 0xF029 State.idx = some 0x04B#16 ∧
    ran (withRegs [(0, 0x10)]) 0xF029 (fun t => (t.idx, t.fault)) = some (0#16, some ⟨.addressOutOfRange, 0x200#16, some 0xF029#16, 0x10⟩) := by
  decide +kernel

/-- L2-M8. -/
theorem test_ldB : ran { withRegs [(0, 0xFF)] with idx := 0x300#16 } 0xF033 (fun t => (t.mem.read 0x300 3 |>.toOption, t.idx))
    = some (some [2#8, 5#8, 5#8], 0x300#16) := by decide +kernel

/-- L2-M9. -/
theorem test_ldB_range : ran { withRegs [(0, 0x7B)] with idx := 0xFFE#16 } 0xF033 (fun t => (t.mem.byte 0xFFE, t.fault))
    = some (0#8, some ⟨.addressOutOfRange, 0x200#16, some 0xF033#16, 0x1000⟩) := by decide +kernel

/-- L2-M14: the bytes stored are the next word fetched there. -/
theorem test_stRegs : ran { withRegs [(0, 0x12), (1, 0x04)] with idx := 0x204#16 } 0xF155
    (fun t => (t.mem.read 0x204 3 |>.toOption, t.idx, (State.setPc t 0x204#16).fetch.toOption))
    = some (some [0x12#8, 0x04#8, 0#8], 0x206#16, some 0x1204#16) := by decide +kernel

/-- L2-M11. -/
theorem test_stRegs_range : ran { withRegs [(0, 0xAA), (1, 0xBB)] with idx := 0xFFF#16 } 0xF155 (fun t => (t.mem.byte 0xFFF, t.idx, t.fault))
    = some (0#8, 0xFFF#16, some ⟨.addressOutOfRange, 0x200#16, some 0xF155#16, 0x1000⟩) := by decide +kernel

/-- L2-M12: the first font bytes. -/
theorem test_ldRegs : ran State.reset 0xFF65 (fun t => (t.v.toList, t.idx))
    = some ([0xF0, 0x90, 0x90, 0x90, 0xF0, 0x20, 0x60, 0x20, 0x20, 0x70, 0xF0, 0x10, 0xF0, 0x80, 0xF0, 0xF0], 0x010#16) := by decide +kernel

/-- L2-M13. -/
theorem test_ldRegs_range : ran { State.reset with idx := 0x1000#16 } 0xF065 State.fault
    = some (some ⟨.addressOutOfRange, 0x200#16, some 0xF065#16, 0x1000⟩) := by decide +kernel

/-- L2-E1, L2-B4: the word of blank memory. -/
theorem test_unknown_word : ran State.reset 0x0000 State.fault = some (some ⟨.unknownOpcode, 0x200#16, some 0x0000#16, 0⟩) := by decide +kernel

/-- L2-F1, and a PC past memory. -/
theorem test_fetch_range : ran { State.reset with pc := 0xFFF#16 } 0x00E0 State.fault = some (some ⟨.addressOutOfRange, 0xFFF#16, none, 0x1000⟩) ∧
    ran { State.reset with pc := 0x1010#16 } 0x00E0 State.fault = some (some ⟨.addressOutOfRange, 0x1010#16, none, 0x1010⟩) := by decide +kernel

/-- L2-F2: the last word of memory runs. -/
theorem test_last_word : ran { State.reset with pc := 0xFFE#16 } 0x6001 (fun t => (t.getV 0, t.pc)) = some (1#8, 0x1000#16) := by decide +kernel

/-- L2-T6, L2-T7, L2-T5: a clock that went back, exactly one period, five periods. -/
theorem test_timer_clock :
    (State.timerTick { State.reset with dt := 5, lastTick := 100 } 10 50).dt = 5#8 ∧
    (State.timerTick { State.reset with dt := 5, lastTick := 0 } 10 10).dt = 4#8 ∧
    (State.timerTick { State.reset with dt := 5, lastTick := 0 } 10 50).dt = 4#8 := by decide +kernel

/-- L2-T16, L2-F5. -/
theorem test_setKey_bad_index :
    (setKey 16 true State.reset).fault = some ⟨.invalidKeyIndex, 0x200#16, none, 16⟩ ∧
    (setKey 1 true (setKey 16 true State.reset)).keys[1] = false := by decide +kernel

/-- L2-B1: the default font; and R131, R700: with another font, its bytes stand there, and 0x00 after them. -/
theorem test_construct_font :
    ((construct 0).mem.read 0x04B 6).toOption = some [0xF0, 0x80, 0xF0, 0x80, 0x80, 0x00] ∧
    ((construct 0 (Vector.replicate 80 0xAA#8)).mem.read 0x04B 6).toOption = some [0xAA, 0xAA, 0xAA, 0xAA, 0xAA, 0x00] ∧
    (construct 0 (Vector.replicate 80 0xAA#8)).mem.byte 0 = 0xAA#8 := by decide +kernel

/-- L2-B3, L2-B5. -/
theorem test_load :
    (match load (List.replicate 3233 0xAA#8) (construct 0) with
      | .next (r, t) => some (r, t.mem.byte 0x200) | .fault _ => none | .refused _ => none) = some (.romTooLarge 3233, 0#8) ∧
    (((HostOp.load [0x60, 0x05]).apply ((HostOp.load [0x12, 0x00]).apply (construct 0))).mem.read 0x200 2).toOption
      = some [0x60#8, 0x05#8] := by decide +kernel

/-! ## Witnesses: concrete states and operands that meet the hypotheses of each obligation, clause by clause -/

/-- The reset state with the word of CLS at the PC given. -/
def clsAt (a : Word) : State := State.withFetchWord { State.reset with pc := a } 16 0x00E0

/-- The reset state in mode Halted. -/
def stopped : State := setKey 16 true State.reset

theorem witness_EncodeInvertsDecode : decodeWord 0xD125#16 = some (.drw 1 2 5) := by decide

theorem witness_StepRunsDecodedInstruction :
    (clsAt 0x200#16).mode ≠ .halted ∧ (clsAt 0x200#16).pc.toNat ≤ 0xFFE ∧
      decodeWord (wordOfBytes ((clsAt 0x200#16).mem.byte 0x200) ((clsAt 0x200#16).mem.byte 0x201)) = some .cls := by decide +kernel

theorem witness_StepRunsDecodedInstruction_last_word :
    (clsAt 0xFFE#16).pc.toNat ≤ 0xFFE ∧
      decodeWord (wordOfBytes ((clsAt 0xFFE#16).mem.byte 0xFFE) ((clsAt 0xFFE#16).mem.byte 0xFFF)) = some .cls := by decide +kernel

theorem witness_FetchOutOfRangeHalts :
    (clsAt 0xFFF#16).mode ≠ .halted ∧ 0xFFE < (clsAt 0xFFF#16).pc.toNat ∧ ¬ 0xFFF < (clsAt 0xFFF#16).pc.toNat ∧
      0xFFF < (clsAt 0x1000#16).pc.toNat := by decide +kernel

theorem witness_UnknownWordHalts :
    State.reset.mode ≠ .halted ∧ State.reset.pc.toNat ≤ 0xFFE ∧
      0x0000#16 = wordOfBytes (State.reset.mem.byte 0x200) (State.reset.mem.byte 0x201) ∧ decodeWord 0x0000#16 = none := by decide +kernel

theorem witness_HaltedMachineStaysHalted : stopped.mode = .halted := by decide +kernel

/-- One state for each fault of the table, at the value next to the one that does not fault. -/
theorem witness_FaultingInstructionOnlyHalts :
    faultOf .ret State.reset = some (.stackUnderflow, 0) ∧ faultOf (.call 0) { State.reset with sp := 16 } = some (.stackOverflow, 16) ∧
    faultOf (.skp 0) (withRegs [(0, 16)]) = some (.invalidKeyIndex, 16) ∧
    faultOf (.addI 0) { withRegs [(0, 1)] with idx := 0xFFFF#16 } = some (.addressOutOfRange, 0x10000) ∧
    faultOf (.ldF 0) (withRegs [(0, 16)]) = some (.addressOutOfRange, 16) ∧
    faultOf (.ldB 0) { State.reset with idx := 0xFFE#16 } = some (.addressOutOfRange, 0x1000) ∧
    faultOf (.stRegs 1) { State.reset with idx := 0xFFF#16 } = some (.addressOutOfRange, 0x1000) ∧
    faultOf (.ldRegs 0) { State.reset with idx := 0x1000#16 } = some (.addressOutOfRange, 0x1000) ∧
    faultOf (.drw 0 0 3) { State.reset with idx := 0xFFE#16 } = some (.addressOutOfRange, 0x1000) := by decide +kernel

/-- The same instructions at the last value that does not fault. -/
theorem witness_OtherInstructionsComplete :
    faultOf .ret { State.reset with sp := 1 } = none ∧ faultOf (.call 0) { State.reset with sp := 15 } = none ∧
    faultOf (.skp 0) (withRegs [(0, 15)]) = none ∧ faultOf (.addI 0) { withRegs [(0, 1)] with idx := 0xFFFE#16 } = none ∧
    faultOf (.ldF 0) (withRegs [(0, 15)]) = none ∧ faultOf (.ldB 0) { State.reset with idx := 0xFFD#16 } = none ∧
    faultOf (.stRegs 15) { State.reset with idx := 0xFF0#16 } = none ∧ faultOf (.ldRegs 0) { State.reset with idx := 0xFFF#16 } = none ∧
    faultOf (.drw 0 0 0) { State.reset with idx := 0xFFFF#16 } = none ∧ faultOf (.ldVxK 0) State.reset = none := by decide +kernel

theorem witness_FaultingStepIsPrecise :
    State.reset.mode ≠ .halted ∧ ∃ t, step State.reset = .next t ∧ t.mode = .halted := ⟨by decide, _, rfl, rfl⟩

/-- A fault, a key wait with and without a key, a skip taken and not taken, a return. -/
theorem witness_NextPcByClass :
    (∃ t, exec .ret State.reset = .next t ∧ faultOf .ret State.reset ≠ none) ∧
    (∃ t, exec (.ldVxK 0) State.reset = .next t ∧ State.reset.lowestPressed = none) ∧
    (∃ t, exec (.ldVxK 0) (withKey 15) = .next t ∧ (withKey 15).lowestPressed ≠ none) ∧
    (∃ t, exec (.seByte 0 0) State.reset = .next t ∧ State.reset.getV 0 = 0#8 ∧ State.reset.getV 0 ≠ 1#8) ∧
    (∃ t, exec .ret { State.reset with sp := 1 } = .next t ∧ faultOf .ret { State.reset with sp := 1 } = none) :=
  ⟨⟨_, rfl, by decide⟩, ⟨_, rfl, by decide⟩, ⟨_, rfl, by decide⟩, ⟨_, rfl, by decide⟩, ⟨_, rfl, by decide⟩⟩

theorem witness_OnlyNamedRegistersChange :
    ∃ t, exec (.addReg 0 1) State.reset = .next t ∧ writesReg (.addReg 0 1) 1 = false := ⟨_, rfl, by decide⟩

theorem witness_LatchWrittenByHostCallsOnly :
    (∃ t, exec .cls State.reset = .next t) ∧ (HostOp.clearAllKeys.apply (withKey 15)).keys ≠ (withKey 15).keys ∧
      ((HostOp.setKey 15 true).apply State.reset).keys ≠ State.reset.keys := ⟨⟨_, rfl⟩, by decide, by decide⟩

theorem witness_DisplayChangesOnlyByClsAndDrw :
    ((HostOp.step 0 0).apply (State.withFetchWord dotted 16 0x00E0)).display ≠ (State.withFetchWord dotted 16 0x00E0).display := by
  decide +kernel

theorem witness_RenderEventPerCompletedDraw :
    (∃ t, exec (.drw 0 0 1) State.reset = .next t ∧ faultOf (.drw 0 0 1) State.reset = none) ∧
    (∃ t, exec (.drw 0 0 1) { State.reset with idx := 0x1000#16 } = .next t ∧
      faultOf (.drw 0 0 1) { State.reset with idx := 0x1000#16 } ≠ none) ∧ ∃ t, exec .cls State.reset = .next t :=
  ⟨⟨_, rfl, by decide⟩, ⟨_, rfl, by decide⟩, ⟨_, rfl⟩⟩

/-- For StackMovesOnlyByCallAndRet, InstructionsIgnoreTheClock and InstructionsIgnoreTheMode. -/
theorem witness_exec_answers_next :
    (∃ t, exec (.call 0x238) { State.reset with sp := 15 } = .next t) ∧ (∃ t, exec .ret { State.reset with sp := 16 } = .next t) ∧
      ∃ t, exec (.drw 1 2 5) State.reset = .next t := ⟨⟨_, rfl⟩, ⟨_, rfl⟩, ⟨_, rfl⟩⟩

theorem witness_MemoryChangesOnlyByBcdAndStore :
    State.reset.mem.wf = true ∧
    (∃ t, exec (.ldB 0) { withRegs [(0, 9)] with idx := 0xFFD#16 } = .next t ∧ t.mem.byte 0xFFF ≠ State.reset.mem.byte 0xFFF) ∧
    ∃ t, exec (.stRegs 0) { withRegs [(0, 9)] with idx := 0xFFF#16 } = .next t ∧ t.mem.byte 0xFFF ≠ State.reset.mem.byte 0xFFF :=
  ⟨by decide, ⟨_, rfl, by decide +kernel⟩, ⟨_, rfl, by decide +kernel⟩⟩

/-- For TimersDropByAtMostOne and LoadRefusedAfterAStep. -/
theorem witness_step_answers_next : ∃ t, step (clsAt 0x200#16) = .next t := ⟨_, rfl⟩

theorem witness_OnlyRndReadsTheDraw :
    (∀ x nn, Instr.cls ≠ .rnd x nn) ∧ ∃ t, exec .cls State.reset = .next t := ⟨fun _ _ h => Instr.noConfusion h, _, rfl⟩

theorem witness_KeySkips :
    ((withRegs [(0, 15)]).getV 0).toNat < 16 ∧ (withKey 15).keys[15] = true ∧ 16 ≤ ((withRegs [(0, 16)]).getV 0).toNat := by decide

theorem witness_JumpTargets :
    State.reset.mode ≠ .halted ∧ (∃ t, exec (.jp 0xFFF) State.reset = .next t ∧ 0xFFE < t.pc.toNat) ∧
      ∃ t, exec (.jpV0 0xFFF) (withRegs [(0, 1)]) = .next t ∧ 0xFFE < t.pc.toNat :=
  ⟨by decide, ⟨_, rfl, by decide⟩, ⟨_, rfl, by decide⟩⟩

theorem witness_CallPushesItsOwnAddress :
    ({ State.reset with sp := 15 } : State).sp.val < 16 ∧ ({ State.reset with sp := 16 } : State).sp.val = 16 := by decide

theorem witness_RetGoesPastThePoppedCall : 0 < ({ State.reset with sp := 1 } : State).sp.val ∧ State.reset.sp.val = 0 := by decide

theorem witness_CallThenReturnResumes :
    ({ State.reset with sp := 15 } : State).sp.val < 16 ∧
      ∃ t u : State, exec (.call 0x238) { State.reset with sp := 15 } = .next t ∧ u.stack = t.stack ∧ u.sp = t.sp :=
  ⟨by decide, _, _, rfl, rfl, rfl⟩

theorem witness_AddToIndex :
    ({ State.reset with idx := 0xFFFE#16 } : State).idx.toNat + ((withRegs [(0, 1)]).getV 0).toNat ≤ 0xFFFF ∧
      0xFFFF < ({ State.reset with idx := 0xFFFF#16 } : State).idx.toNat + ((withRegs [(0, 1)]).getV 0).toNat := by decide

theorem witness_IndexOfGlyph : ((withRegs [(0, 15)]).getV 0).toNat ≤ 15 ∧ 15 < ((withRegs [(0, 16)]).getV 0).toNat := by decide

/-- For BcdStoresThreeDigits, StoreRegisters and LoadRegisters: the last range that fits and the first that does not. -/
theorem witness_ranges :
    State.reset.mem.wf = true ∧
    ({ State.reset with idx := 0xFFD#16 } : State).idx.toNat + 2 ≤ 0xFFF ∧ 0xFFF < ({ State.reset with idx := 0xFFE#16 } : State).idx.toNat + 2 ∧
    ({ State.reset with idx := 0xFF0#16 } : State).idx.toNat + (15 : Reg).val ≤ 0xFFF ∧
    0xFFF < ({ State.reset with idx := 0xFF1#16 } : State).idx.toNat + (15 : Reg).val := by decide

theorem witness_StoreThenLoadRestores :
    State.reset.mem.wf = true ∧ State.reset.idx.toNat + (2 : Reg).val ≤ 0xFFF ∧ (2 : Reg).val ≤ (2 : Reg).val ∧
      ∃ t u : State, exec (.stRegs 2) State.reset = .next t ∧ u.mem = t.mem ∧ u.idx = State.reset.idx :=
  ⟨by decide, by decide, by decide, _, { State.reset with mem := _ }, rfl, rfl, rfl⟩

theorem witness_CanonicalMemoryIsExtensional :
    Memory.wf [(0x300, 1#8)] = true ∧ Memory.wf (Memory.write [] 0x300 1#8) = true ∧
      ∀ a, Memory.byte [(0x300, 1#8)] a = (Memory.write [] 0x300 1#8).byte a := ⟨by decide, by decide, fun _ => rfl⟩

/-- The range clauses at their boundaries, a covered pixel that is set, and one that is not covered. -/
theorem witness_DrawFlipsTheCoveredPixels :
    ((3 : Fin 16).val = 0 ∨ ({ State.reset with idx := 0xFFD#16 } : State).idx.toNat + (3 : Fin 16).val ≤ 0x1000) ∧
    ¬ ((3 : Fin 16).val = 0 ∨ ({ State.reset with idx := 0xFFE#16 } : State).idx.toNat + (3 : Fin 16).val ≤ 0x1000) ∧
    (SpriteCovers dotted.mem 0 1 0 0 0 0 ∧ dotted.display.pixel 0 0 = true) ∧ ¬ SpriteCovers dotted.mem 0 1 0 0 1 0 :=
  ⟨by decide, by decide, ⟨⟨0, 0, by decide, by decide, by decide, by decide, by decide⟩, by decide⟩,
    fun ⟨r, _, hr, _, h, _⟩ => by
      have h0 : r = 0 := by omega
      subst h0
      exact absurd h (by decide)⟩

theorem witness_DrawTwiceRestores :
    (1 : Reg) ≠ regF ∧ (2 : Reg) ≠ regF ∧ ((5 : Fin 16).val = 0 ∨ State.reset.idx.toNat + (5 : Fin 16).val ≤ 0x1000) ∧
      ∃ t u, exec (.drw 1 2 5) State.reset = .next t ∧ exec (.drw 1 2 5) t = .next u :=
  ⟨by decide, by decide, by decide, _, _, rfl, rfl⟩

theorem witness_DelayTimerReadAfterDecay :
    let s := State.withFetchWord State.reset 16 0xF307
    s.mode ≠ .halted ∧ s.pc.toNat ≤ 0xFFE ∧ decodeWord (wordOfBytes (s.mem.byte 0x200) (s.mem.byte 0x201)) = some (.ldVxDT 3) := by
  decide +kernel

/-- Exactly the period, a clock that went back with period 0, one less than the period, a clock that went back. -/
theorem witness_TimerClockRule :
    let s : State := { State.reset with lastTick := 100 }
    (s.lastTick ≤ 110 ∧ 10 ≤ 110 - s.lastTick) ∧ (50 < s.lastTick ∧ 0 = 0) ∧ (s.lastTick ≤ 109 ∧ 109 - s.lastTick < 10) ∧
      (50 < s.lastTick ∧ 0 < 10) := by decide

theorem witness_WaitForKey :
    ((withKey 15).keys[15] = true ∧ ∀ j, (hj : j < 15) → (withKey 15).keys[j]'(by omega) = false) ∧
      ∀ k, (h : k < 16) → State.reset.keys[k] = false := by decide

/-- For StepKeepsInvariant and HostOperationKeepsInvariant: a state with the invariant whose step gives a next state. -/
theorem witness_StepKeepsInvariant : (clsAt 0x200#16).Inv ∧ ∃ t, step (clsAt 0x200#16) = .next t :=
  ⟨⟨by decide +kernel, ⟨fun h => absurd h (by decide +kernel), fun _ => by decide +kernel⟩,
    show (clsAt 0x200#16).pc.toNat ≤ 0x10FE by decide +kernel, fun k _ hk => absurd hk (Nat.not_lt_zero k),
    fun h => absurd h (by decide +kernel)⟩, _, rfl⟩

theorem witness_ResetMemory : 0x04F < 0x050 ∧ 0x050 ≤ 0x050 := by decide

theorem witness_LoadCopiesTheRom :
    State.reset.mem.wf = true ∧ State.reset.mode ≠ .halted ∧ State.reset.stepCount = 0 ∧
      (List.replicate 3232 0xAA#8).length ≤ 3232 ∧ 3232 < (List.replicate 3233 0xAA#8).length := by
  simp only [List.length_replicate]; decide

theorem witness_SetKeyWritesOneKey : State.reset.mode ≠ .halted ∧ 15 < 16 ∧ 16 ≤ 16 := by decide

theorem witness_ClearAllKeysReleasesEveryKey : (withKey 15).mode ≠ .halted ∧ stopped.mode = .halted := by decide

theorem witness_SoundWhileTimerAboveOne :
    1 < ({ State.reset with st := 2#8 } : State).st.toNat ∧ ({ State.reset with st := 1#8 } : State).st = 1#8 ∧ State.reset.st = 0#8 := by decide

end Sys2Proof.Tests.Slice0
end

section
/-! PROOFS. What a step does when the machine is not Halted, and when its fetch is out of range (R300). -/

namespace Sys2Proof.Machine

/-- Running and AwaitingKey take the same cycle: the timer clock, the instruction, the next step's inputs (R300). -/
theorem step_of_not_halted {s : State} (h : s.mode ≠ .halted) :
    step s = takeNextInputs (fetchDecodeExecute (s.timerTick Config.timerPeriod s.now)) := by
  cases hm : s.mode with
  | halted => exact absurd hm h
  | running => simp only [step, stepBody, hm]
  | awaitingKey => simp only [step, stepBody, hm]

theorem fetchDecodeExecute_of_pc_out_of_range {s : State} (h : 0xFFE < s.pc.toNat) :
    fetchDecodeExecute s = .next (s.halt .addressOutOfRange none (max s.pc.toNat 0x1000)) := by
  have hf : s.fetch = .error (max s.pc.toNat 0x1000) := by
    rw [s.fetch_eq, if_neg (Nat.not_le.2 h)]
  simp only [fetchDecodeExecute, hf]

/-- The timer clock leaves the PC, so the fetch after it is out of range too. -/
theorem step_of_pc_out_of_range {s : State} (hm : s.mode ≠ .halted) (h : 0xFFE < s.pc.toNat) :
    step s = .next ((s.timerTick Config.timerPeriod s.now).halt .addressOutOfRange none
      (max s.pc.toNat 0x1000)).nextInputs := by
  rw [step_of_not_halted hm, fetchDecodeExecute_of_pc_out_of_range (by simpa using h)]
  rfl

end Sys2Proof.Machine
end

section
/-! PROOFS. Control flow (spec/40_control_flow.md): jumps, call and return. -/

namespace Sys2Proof.Machine

/-! ## Zero extension and the targets of the jumps -/

@[simp] theorem zext16Addr_toNat (nnn : Addr12) : (zext16Addr nnn).toNat = nnn.toNat :=
  BitVec.toNat_setWidth_of_le (by decide)

@[simp] theorem zext16Byte_toNat (b : Byte) : (zext16Byte b).toNat = b.toNat :=
  BitVec.toNat_setWidth_of_le (by decide)

/-- A 12-bit and an 8-bit number sum to at most 0x10FE, so the 16-bit sum is exact (R404). -/
theorem zext16Addr_add_zext16Byte_toNat (nnn : Addr12) (b : Byte) :
    (zext16Addr nnn + zext16Byte b).toNat = nnn.toNat + b.toNat := by
  have hn := nnn.isLt
  have hb := b.isLt
  rw [BitVec.toNat_add_of_lt (by simp only [zext16Addr_toNat, zext16Byte_toNat]; omega),
    zext16Addr_toNat, zext16Byte_toNat]

theorem movesPc_setPc (s : State) (a : Word) : MovesPc s (s.setPc a) a := rfl

theorem MovesPc.mode_eq {s t : State} {a : Word} (h : MovesPc s t a) : t.mode = s.mode := by
  rw [MovesPc] at h
  rw [h]

/-! ## The meanings, as `exec` gives them -/

theorem exec_jp (nnn : Addr12) (s : State) : exec (.jp nnn) s = .next (s.setPc (zext16Addr nnn)) := rfl

theorem exec_jpV0 (nnn : Addr12) (s : State) :
    exec (.jpV0 nnn) s = .next (s.setPc (zext16Addr nnn + zext16Byte (s.getV 0))) := rfl

theorem exec_call (nnn : Addr12) (s : State) : exec (.call nnn) s = execCall nnn s := rfl

theorem exec_ret (s : State) : exec .ret s = execRet s := rfl

/-- A jump moves the PC and nothing else. -/
theorem movesPc_of_exec_jump {i : Instr} {nnn : Addr12} {s t : State} (hi : i ∈ [Instr.jp nnn, Instr.jpV0 nnn])
    (h : exec i s = .next t) : MovesPc s t t.pc := by
  simp only [List.mem_cons, List.not_mem_nil, or_false] at hi
  rcases hi with rfl | rfl
  · rw [exec_jp] at h
    cases h
    rfl
  · rw [exec_jpV0] at h
    cases h
    rfl

/-! ## The obligations -/

/-- Settles O31: each jump is one `setPc`, whose target does not wrap; it leaves the mode, so the step after it fetches at the
target. -/
theorem jumpTargets : Obligations.JumpTargets := by
  intro s nnn
  refine ⟨⟨_, exec_jp nnn s, zext16Addr_toNat nnn, movesPc_setPc s _⟩,
    ⟨_, exec_jpV0 nnn s, zext16Addr_add_zext16Byte_toNat nnn _, movesPc_setPc s _⟩, ?_⟩
  intro i hi t hm ht hpc
  have hmode : t.mode = s.mode := (movesPc_of_exec_jump hi ht).mode_eq
  exact ⟨_, _, step_of_pc_out_of_range (hmode ▸ hm) hpc, rfl, rfl⟩

/-- Settles O32, from the two equations of `execCall`: with room on the stack and without. -/
theorem callPushesItsOwnAddress : Obligations.CallPushesItsOwnAddress := by
  intro s nnn
  rw [exec_call]
  constructor
  · intro hroom
    refine ⟨_, execCall_of_room nnn s hroom, Vector.getElem_set_self hroom, ?_, rfl, zext16Addr_toNat nnn, rfl⟩
    intro k hk hne
    exact Vector.getElem_set_ne hroom hk hne.symm
  · intro hfull
    exact ⟨_, _, execCall_of_full nnn s hfull, rfl, rfl, rfl⟩

/-- Settles O33, from the two equations of `execRet`: with an entry on the stack and without. -/
theorem retGoesPastThePoppedCall : Obligations.RetGoesPastThePoppedCall := by
  intro s
  rw [exec_ret]
  constructor
  · intro hpos
    exact ⟨_, execRet_of_pos s hpos, rfl, rfl, rfl⟩
  · intro hzero
    exact ⟨_, _, execRet_of_zero s hzero, rfl, rfl, rfl⟩

end Sys2Proof.Machine
end

section
/-! PROOFS. Conditional skips (spec/41_skips.md): the comparisons. -/

namespace Sys2Proof.Machine

/-! ## The common skip rule -/

/-- The common skip rule (R426), with the condition as a proposition. -/
theorem movesPc_skipIf (s : State) {c : Bool} {p : Prop} [Decidable p] (h : c = true ↔ p) :
    MovesPc s (s.skipIf c) (s.pc + if p then 4#16 else 2#16) := by
  rw [← if_congr h rfl rfl]
  exact movesPc_setPc s _

/-! ## The meanings, as `exec` gives them -/

theorem exec_seByte (x : Reg) (nn : Byte) (s : State) :
    exec (.seByte x nn) s = .next (s.skipIf (s.getV x == nn)) := rfl

theorem exec_sneByte (x : Reg) (nn : Byte) (s : State) :
    exec (.sneByte x nn) s = .next (s.skipIf (s.getV x != nn)) := rfl

theorem exec_seReg (x y : Reg) (s : State) :
    exec (.seReg x y) s = .next (s.skipIf (s.getV x == s.getV y)) := rfl

theorem exec_sneReg (x y : Reg) (s : State) :
    exec (.sneReg x y) s = .next (s.skipIf (s.getV x != s.getV y)) := rfl

/-! ## The obligation -/

/-- Settles O29: each comparison is the common skip rule, with a Boolean test that decides its condition. -/
theorem compareSkips : Obligations.CompareSkips := by
  intro s x y nn
  exact ⟨⟨_, exec_seByte x nn s, movesPc_skipIf s beq_iff_eq⟩,
    ⟨_, exec_sneByte x nn s, movesPc_skipIf s bne_iff_ne⟩,
    ⟨_, exec_seReg x y s, movesPc_skipIf s beq_iff_eq⟩,
    ⟨_, exec_sneReg x y s, movesPc_skipIf s bne_iff_ne⟩⟩

end Sys2Proof.Machine
end

section
/-! PROOFS. Register operations (spec/42_register_ops.md): the operations that write Vx and no flag. -/

namespace Sys2Proof.Machine

/-! ## The common register write -/

/-- Writing one register and moving on is all that an operation without a flag does: the register reads back the byte, every other
register is kept (R440, R441, R442). -/
theorem writesReg_setV_advance (s : State) (x : Reg) (b : Byte) : WritesReg s (s.setV x b).advance x b := by
  refine ⟨?_, fun r hr => ?_, rfl, rfl⟩
  · rw [State.getV_advance, State.getV_setV, if_pos rfl]
  · rw [State.getV_advance, State.getV_setV, if_neg hr]

/-- The wraparound sum of bytes is the exact sum modulo 256 (R446). -/
theorem addBytes_eq_ofNat_mod (a b : Byte) : addBytes a b = BitVec.ofNat 8 ((a.toNat + b.toNat) % 256) := by
  apply BitVec.eq_of_toNat_eq
  simp only [addBytes, BitVec.toNat_ofNat, Nat.reducePow, Nat.mod_mod]

/-! ## The meanings, as `exec` gives them -/

theorem exec_ldByte (x : Reg) (nn : Byte) (s : State) : exec (.ldByte x nn) s = .next (s.setV x nn).advance := rfl

theorem exec_ldReg (x y : Reg) (s : State) : exec (.ldReg x y) s = .next (s.setV x (s.getV y)).advance := rfl

theorem exec_addByte (x : Reg) (nn : Byte) (s : State) :
    exec (.addByte x nn) s = .next (s.setV x (addBytes (s.getV x) nn)).advance := rfl

/-! ## The obligation -/

/-- Settles O23: each operation is the common register write, and the byte `7XNN` writes is the exact sum modulo 256. -/
theorem loadAndAddImmediate : Obligations.LoadAndAddImmediate := by
  intro s x y nn
  rw [← addBytes_eq_ofNat_mod]
  exact ⟨⟨_, exec_ldByte x nn s, writesReg_setV_advance s x nn⟩,
    ⟨_, exec_ldReg x y s, writesReg_setV_advance s x _⟩,
    ⟨_, exec_addByte x nn s, writesReg_setV_advance s x _⟩⟩

end Sys2Proof.Machine
end

section
/-! PROOFS. Memory and index (spec/43_memory_index.md): the immediate load of I. -/

namespace Sys2Proof.Machine

/-- Writing I and moving on changes I and the PC, and nothing else. -/
theorem setIdx_advance_eq (s : State) (a : Word) :
    (s.setIdx a).advance = { s with idx := a, pc := s.pc + 2#16 } := rfl

theorem exec_ldI (nnn : Addr12) (s : State) : exec (.ldI nnn) s = .next (s.setIdx (zext16Addr nnn)).advance := rfl

/-- Settles O36: the load is one index write and the move to the next instruction, and the zero extension keeps the value. -/
theorem loadIndexImmediate : Obligations.LoadIndexImmediate := by
  intro s nnn
  have hexec : exec (.ldI nnn) s = .next { s with idx := zext16Addr nnn, pc := s.pc + 2#16 } := by
    rw [exec_ldI, setIdx_advance_eq]
  exact ⟨_, hexec, zext16Addr_toNat nnn, rfl, rfl⟩

end Sys2Proof.Machine
end

section
/-! PROOFS. The step as a case distinction: what the cycle, a step that ends in a next state, and the host's `step` call can do (R300). -/

namespace Sys2Proof.Machine

/-! ## What the cycle reads is not touched by the host's inputs or by the timer clock -/

@[simp] theorem State.fetch_timerTick (s : State) (period now : Nat) : (s.timerTick period now).fetch = s.fetch := rfl

@[simp] theorem State.fetch_withInputs (s : State) (now : Nat) (rnd : Byte) : (s.withInputs now rnd).fetch = s.fetch := rfl

@[simp] theorem State.withInputs_display (s : State) (now : Nat) (rnd : Byte) :
    (s.withInputs now rnd).display = s.display := rfl

/-! ## The case distinctions -/

/-- The cycle halts on a fetch out of range, halts on a word of no row, or runs the instruction decoded (R300, R306). -/
theorem fetchDecodeExecute_cases (s : State) :
    (∃ bad, s.fetch = .error bad ∧ fetchDecodeExecute s = .next (s.halt .addressOutOfRange none bad)) ∨
      (∃ w, s.fetch = .ok w ∧ decodeWord w = none ∧
        fetchDecodeExecute s = .next (s.halt .unknownOpcode (some w) w.toNat)) ∨
      ∃ w i, s.fetch = .ok w ∧ decodeWord w = some i ∧ fetchDecodeExecute s = exec i s := by
  cases hf : s.fetch with
  | error bad => exact .inl ⟨bad, rfl, by simp only [fetchDecodeExecute, hf]⟩
  | ok w =>
    cases hd : decodeWord w with
    | none => exact .inr (.inl ⟨w, rfl, hd, by simp only [fetchDecodeExecute, hf, hd]⟩)
    | some i => exact .inr (.inr ⟨w, i, rfl, hd, by simp only [fetchDecodeExecute, hf, hd]⟩)

theorem takeNextInputs_eq_next {o : Host.Outcome State Fault Refusal} {t : State} (h : takeNextInputs o = .next t) :
    ∃ u, o = .next u ∧ t = u.nextInputs := by
  cases o with
  | next u => cases h; exact ⟨u, rfl, rfl⟩
  | fault f => cases h
  | refused r => cases h

/-- A step that ends in a next state is a step of a machine that is not Halted: its cycle, run after the timer clock, ends in a
state that then takes up the next inputs. -/
theorem step_eq_next {s t : State} (h : step s = .next t) :
    s.mode ≠ .halted ∧
      ∃ u, fetchDecodeExecute (s.timerTick Config.timerPeriod s.now) = .next u ∧ t = u.nextInputs := by
  have hm : s.mode ≠ .halted := fun hm => by simp [step, stepBody, hm] at h
  rw [step_of_not_halted hm] at h
  exact ⟨hm, takeNextInputs_eq_next h⟩

/-- The host's `step` call ends in the step's next state, or leaves the state as it is (R300, R605). -/
theorem stepWith_cases (now : Nat) (rnd : Byte) (s : State) :
    (∃ t, step (s.withInputs now rnd) = .next t ∧ (stepWith now rnd s).2 = t) ∨ (stepWith now rnd s).2 = s := by
  cases h : step (s.withInputs now rnd) with
  | next t => exact .inl ⟨t, rfl, by simp only [stepWith, h]⟩
  | fault f => cases f; exact .inr (by simp only [stepWith, h])
  | refused r => exact .inr (by simp only [stepWith, h])

end Sys2Proof.Machine
end

section
/-! PROOFS. The display (spec/45_sprite_draw.md): which instructions and host operations change it, and its row-major elements. -/

namespace Sys2Proof.Machine

/-! ## The instructions that leave the display -/

/-- The next state, where the outcome is one, has the display of `s`. -/
def KeepsDisplay (s : State) (o : Host.Outcome State Fault Refusal) : Prop :=
  ∀ t, o = .next t → t.display = s.display

theorem KeepsDisplay.next {s t : State} (h : t.display = s.display) : KeepsDisplay s (.next t) := by
  intro u hu
  cases hu
  exact h

/-- Taking a fault discards nothing and draws nothing (R602). -/
theorem KeepsDisplay.raise {i : Instr} {kind : Cause} {info : Nat} {s : State} : KeepsDisplay s (raise i kind info s) :=
  .next rfl

theorem KeepsDisplay.ite {s : State} {p : Prop} [Decidable p] {o o' : Host.Outcome State Fault Refusal}
    (h : KeepsDisplay s o) (h' : KeepsDisplay s o') : KeepsDisplay s (if p then o else o') := by
  split
  · exact h
  · exact h'

theorem State.setVsFrom_display (s : State) (k : Nat) (bs : List Byte) : (s.setVsFrom k bs).display = s.display := by
  rw [State.setVsFrom_eq]

theorem keepsDisplay_execRet (s : State) : KeepsDisplay s (execRet s) := by
  rcases Nat.eq_zero_or_pos s.sp.val with hzero | hpos
  · rw [execRet_of_zero s hzero]
    exact .raise
  · rw [execRet_of_pos s hpos]
    exact .next rfl

theorem keepsDisplay_execCall (nnn : Addr12) (s : State) : KeepsDisplay s (execCall nnn s) := by
  rcases Nat.lt_or_ge s.sp.val 16 with hroom | hfull
  · rw [execCall_of_room nnn s hroom]
    exact .next rfl
  · rw [execCall_of_full nnn s (by omega)]
    exact .raise

theorem keepsDisplay_execSkp (x : Reg) (s : State) : KeepsDisplay s (execSkp x s) := by
  rcases Nat.lt_or_ge (s.getV x).toNat 16 with hkey | hno
  · rw [execSkp_of_key x s hkey]
    exact .next rfl
  · rw [execSkp_of_no_key x s hno]
    exact .raise

theorem keepsDisplay_execSknp (x : Reg) (s : State) : KeepsDisplay s (execSknp x s) := by
  rcases Nat.lt_or_ge (s.getV x).toNat 16 with hkey | hno
  · rw [execSknp_of_key x s hkey]
    exact .next rfl
  · rw [execSknp_of_no_key x s hno]
    exact .raise

theorem keepsDisplay_execLdVxK (x : Reg) (s : State) : KeepsDisplay s (execLdVxK x s) := by
  cases h : s.lowestPressed with
  | none =>
    rw [execLdVxK_of_none x s h]
    exact .next rfl
  | some k =>
    rw [execLdVxK_of_pressed x s h]
    exact .next rfl

theorem keepsDisplay_execAddI (x : Reg) (s : State) : KeepsDisplay s (execAddI x s) :=
  .ite .raise (.next rfl)

theorem keepsDisplay_execLdF (x : Reg) (s : State) : KeepsDisplay s (execLdF x s) :=
  .ite .raise (.next rfl)

theorem keepsDisplay_execLdB (x : Reg) (s : State) : KeepsDisplay s (execLdB x s) := by
  rw [execLdB_eq]
  exact .ite (.next rfl) .raise

theorem keepsDisplay_execStRegs (x : Reg) (s : State) : KeepsDisplay s (execStRegs x s) := by
  rw [execStRegs_eq]
  exact .ite (.next rfl) .raise

theorem keepsDisplay_execLdRegs (x : Reg) (s : State) : KeepsDisplay s (execLdRegs x s) := by
  rw [execLdRegs_eq]
  exact .ite (.next (s.setVsFrom_display 0 _)) .raise

/-- Every instruction but `00E0` and `DXYN` leaves the display (R501). -/
theorem keepsDisplay_exec {i : Instr} (hi : ¬ (i = .cls ∨ ∃ x y n, i = .drw x y n)) (s : State) :
    KeepsDisplay s (exec i s) := by
  cases i with
  | cls => exact absurd (.inl rfl) hi
  | drw x y n => exact absurd (.inr ⟨x, y, n, rfl⟩) hi
  | ret => exact keepsDisplay_execRet s
  | call nnn => exact keepsDisplay_execCall nnn s
  | skp x => exact keepsDisplay_execSkp x s
  | sknp x => exact keepsDisplay_execSknp x s
  | ldVxK x => exact keepsDisplay_execLdVxK x s
  | addI x => exact keepsDisplay_execAddI x s
  | ldF x => exact keepsDisplay_execLdF x s
  | ldB x => exact keepsDisplay_execLdB x s
  | stRegs x => exact keepsDisplay_execStRegs x s
  | ldRegs x => exact keepsDisplay_execLdRegs x s
  | jp | jpV0 | seByte | sneByte | seReg | sneReg | ldByte | addByte | ldReg | orReg | andReg | xorReg | addReg | subReg
  | shrReg | subnReg | shlReg | ldI | rnd | ldVxDT | ldDTVx | ldSTVx => exact .next rfl

/-! ## Steps and host operations -/

/-- A step that changes the display has fetched the word of a `00E0` or a `DXYN`: the timer clock, a halt in the cycle and the
next step's inputs leave the display. -/
theorem fetch_of_step_display_ne {s t : State} (h : step s = .next t) (hne : t.display ≠ s.display) :
    ∃ w i, s.fetch = .ok w ∧ decodeWord w = some i ∧ (i = .cls ∨ ∃ x y n, i = .drw x y n) := by
  obtain ⟨-, u, hu, rfl⟩ := step_eq_next h
  obtain ⟨bad, -, hcycle⟩ | ⟨w, -, -, hcycle⟩ | ⟨w, i, hf, hd, hcycle⟩ :=
    fetchDecodeExecute_cases (s.timerTick Config.timerPeriod s.now)
  · rw [hcycle] at hu
    cases hu
    exact absurd rfl hne
  · rw [hcycle] at hu
    cases hu
    exact absurd rfl hne
  · rw [State.fetch_timerTick] at hf
    rw [hcycle] at hu
    exact ⟨w, i, hf, hd, Classical.byContradiction fun hi => hne (keepsDisplay_exec hi (s.timerTick ..) u hu)⟩

theorem load_apply_display (bytes : List Byte) (s : State) : ((HostOp.load bytes).apply s).display = s.display := by
  simp only [HostOp.apply, load]
  split_ifs <;> rfl

@[simp] theorem setKey_display (k : Nat) (pressed : Bool) (s : State) : (setKey k pressed s).display = s.display := by
  unfold setKey
  split_ifs <;> rfl

@[simp] theorem clearAllKeys_display (s : State) : (clearAllKeys s).display = s.display := by
  unfold clearAllKeys
  split_ifs <;> rfl

/-! ## The row-major snapshot -/

/-- Element row*64+col of the snapshot is the pixel at (row, col): a column is below 64 (R126, R501). -/
theorem Display.element_row_col (d : Display) (row : Fin 32) (col : Fin 64) :
    d.element (row.val * 64 + col.val) = d.pixel row col := by
  have hrow : Fin.ofNat 32 ((row.val * 64 + col.val) / 64) = row := Fin.ext (by simp only [Fin.val_ofNat]; omega)
  have hcol : Fin.ofNat 64 (row.val * 64 + col.val) = col := Fin.ext (by simp only [Fin.val_ofNat]; omega)
  rw [Display.element, hrow, hcol]

/-! ## The obligation -/

/-- Settles O15, by cases on the host operation: only a step can change the display, and a step that does has run `00E0` or `DXYN`. -/
theorem displayChangesOnlyByClsAndDrw : Obligations.DisplayChangesOnlyByClsAndDrw := by
  refine ⟨fun op s hne => ?_, Display.element_row_col⟩
  cases op with
  | load bytes => exact absurd (load_apply_display bytes s) hne
  | setKey k pressed => exact absurd (setKey_display k pressed s) hne
  | clearAllKeys => exact absurd (clearAllKeys_display s) hne
  | step now rnd =>
    obtain ⟨t, hstep, ht⟩ | hstay := stepWith_cases now rnd s
    · have hchange : t.display ≠ (s.withInputs now rnd).display := by
        rw [State.withInputs_display, ← ht]
        exact hne
      obtain ⟨w, i, hf, hd, hi⟩ := fetch_of_step_display_ne hstep hchange
      rw [State.fetch_withInputs] at hf
      exact ⟨now, rnd, w, i, rfl, hf, hd, hi⟩
    · exact absurd (congrArg State.display hstay) hne

end Sys2Proof.Machine
end

section
/-! PROOFS. Timers (spec/46_timers_keys.md): the moves between a register and a timer. -/

namespace Sys2Proof.Machine

/-- Moving on to the next instruction changes the PC, and nothing else (R104). -/
theorem advance_eq (s : State) : s.advance = { s with pc := s.pc + 2#16 } := rfl

/-! ## The meanings, as `exec` gives them -/

theorem exec_ldVxDT (x : Reg) (s : State) : exec (.ldVxDT x) s = .next (s.setV x s.dt).advance := rfl

theorem exec_ldDTVx (x : Reg) (s : State) : exec (.ldDTVx x) s = .next { s with dt := s.getV x }.advance := rfl

theorem exec_ldSTVx (x : Reg) (s : State) : exec (.ldSTVx x) s = .next { s with st := s.getV x }.advance := rfl

/-! ## The obligation -/

/-- Settles O46: `FX07` is the common register write of DT; `FX15` and `FX18` each write one timer field and move on. -/
theorem timerMoves : Obligations.TimerMoves := by
  intro s x
  refine ⟨⟨_, exec_ldVxDT x s, writesReg_setV_advance s x s.dt⟩, ?_, ?_⟩
  · rw [exec_ldDTVx, advance_eq]
  · rw [exec_ldSTVx, advance_eq]

end Sys2Proof.Machine
end

section
/-! PROOFS. The host's operations (spec/60_exceptions.md): who writes the keyboard latch, clearAllKeys, and shouldPlaySound. -/

namespace Sys2Proof.Machine

/-! ## The frame of every instruction -/

/-- The fields no instruction writes are kept: last_tick, the keyboard latch, the step's inputs and the count of steps. -/
def InstrFrame (s t : State) : Prop :=
  t = { t with lastTick := s.lastTick, keys := s.keys, now := s.now, rnd := s.rnd, stepCount := s.stepCount }

theorem InstrFrame.keys_eq {s t : State} (h : InstrFrame s t) : t.keys = s.keys := by
  rw [InstrFrame] at h
  rw [h]

theorem instrFrame_setVsFrom (s : State) (k : Nat) (bs : List Byte) : InstrFrame s (s.setVsFrom k bs) := by
  rw [State.setVsFrom_eq]
  rfl

/-- Writing I and moving on keeps the frame. -/
theorem InstrFrame.setIdx_advance {s t : State} (h : InstrFrame s t) (a : Word) : InstrFrame s (t.setIdx a).advance :=
  congrArg (fun u : State => (u.setIdx a).advance) h

/-- Every instruction answers a next state, a fault included (R602), and keeps the fields no instruction writes. -/
theorem exec_instrFrame (i : Instr) (s : State) : ∃ t, exec i s = .next t ∧ InstrFrame s t := by
  cases i with
  | ret =>
    rcases Nat.eq_zero_or_pos s.sp.val with hzero | hpos
    · exact ⟨_, execRet_of_zero s hzero, rfl⟩
    · exact ⟨_, execRet_of_pos s hpos, rfl⟩
  | call nnn =>
    rcases Nat.lt_or_ge s.sp.val 16 with hroom | hfull
    · exact ⟨_, execCall_of_room nnn s hroom, rfl⟩
    · exact ⟨_, execCall_of_full nnn s (by omega), rfl⟩
  | skp x =>
    rcases Nat.lt_or_ge (s.getV x).toNat 16 with hkey | hno
    · exact ⟨_, execSkp_of_key x s hkey, rfl⟩
    · exact ⟨_, execSkp_of_no_key x s hno, rfl⟩
  | sknp x =>
    rcases Nat.lt_or_ge (s.getV x).toNat 16 with hkey | hno
    · exact ⟨_, execSknp_of_key x s hkey, rfl⟩
    · exact ⟨_, execSknp_of_no_key x s hno, rfl⟩
  | ldVxK x =>
    cases hlow : s.lowestPressed with
    | none => exact ⟨_, execLdVxK_of_none x s hlow, rfl⟩
    | some k => exact ⟨_, execLdVxK_of_pressed x s hlow, rfl⟩
  | addI x =>
    rcases Nat.lt_or_ge 0xFFFF (s.idx.toNat + (s.getV x).toNat) with hexcess | hfit
    · exact ⟨_, execAddI_of_excess x s hexcess, rfl⟩
    · exact ⟨_, execAddI_of_fit x s hfit, rfl⟩
  | ldF x =>
    rcases Nat.lt_or_ge 15 (s.getV x).toNat with hno | hdigit
    · exact ⟨_, execLdF_of_no_digit x s hno, rfl⟩
    · exact ⟨_, execLdF_of_digit x s hdigit, rfl⟩
  | ldB x =>
    by_cases hrange : s.idx.toNat + 3 ≤ 0x1000
    · exact ⟨_, (execLdB_eq x s).trans (if_pos hrange), rfl⟩
    · exact ⟨_, (execLdB_eq x s).trans (if_neg hrange), rfl⟩
  | stRegs x =>
    by_cases hrange : s.idx.toNat + (x.val + 1) ≤ 0x1000
    · exact ⟨_, (execStRegs_eq x s).trans (if_pos hrange), rfl⟩
    · exact ⟨_, (execStRegs_eq x s).trans (if_neg hrange), rfl⟩
  | ldRegs x =>
    by_cases hrange : s.idx.toNat + (x.val + 1) ≤ 0x1000
    · exact ⟨_, (execLdRegs_eq x s).trans (if_pos hrange), (instrFrame_setVsFrom s 0 _).setIdx_advance _⟩
    · exact ⟨_, (execLdRegs_eq x s).trans (if_neg hrange), rfl⟩
  | drw x y n =>
    by_cases hrange : n.val = 0 ∨ s.idx.toNat + n.val ≤ 0x1000
    · exact ⟨_, (execDrw_eq x y n s).trans (if_pos hrange), rfl⟩
    · exact ⟨_, (execDrw_eq x y n s).trans (if_neg hrange), rfl⟩
  | cls | jp | jpV0 | seByte | sneByte | seReg | sneReg | ldByte | addByte | ldReg | orReg | andReg | xorReg | addReg
  | subReg | shrReg | subnReg | shlReg | ldI | rnd | ldVxDT | ldDTVx | ldSTVx => exact ⟨_, rfl, rfl⟩

theorem instrFrame_of_exec {i : Instr} {s t : State} (h : exec i s = .next t) : InstrFrame s t := by
  obtain ⟨u, hexec, hframe⟩ := exec_instrFrame i s
  cases hexec.symm.trans h
  exact hframe

/-! ## The keyboard latch under a step and under the host's operations -/

/-- The cycle has the frame of an instruction: where it halts instead, only the mode and the record change (R602). -/
theorem instrFrame_of_fetchDecodeExecute {s t : State} (h : fetchDecodeExecute s = .next t) : InstrFrame s t := by
  obtain ⟨bad, -, hcycle⟩ | ⟨w, -, -, hcycle⟩ | ⟨w, i, -, -, hcycle⟩ := fetchDecodeExecute_cases s
  · cases hcycle.symm.trans h
    rfl
  · cases hcycle.symm.trans h
    rfl
  · exact instrFrame_of_exec (hcycle.symm.trans h)

theorem step_keys {s t : State} (h : step s = .next t) : t.keys = s.keys := by
  obtain ⟨-, u, hcycle, rfl⟩ := step_eq_next h
  exact (instrFrame_of_fetchDecodeExecute hcycle).keys_eq

@[simp] theorem State.withInputs_keys (s : State) (now : Nat) (rnd : Byte) : (s.withInputs now rnd).keys = s.keys := rfl

theorem stepWith_keys (now : Nat) (rnd : Byte) (s : State) : (stepWith now rnd s).2.keys = s.keys := by
  obtain ⟨t, hstep, ht⟩ | hstay := stepWith_cases now rnd s
  · rw [ht, step_keys hstep, State.withInputs_keys]
  · rw [hstay]

theorem load_apply_keys (bytes : List Byte) (s : State) : ((HostOp.load bytes).apply s).keys = s.keys := by
  simp only [HostOp.apply, load]
  split_ifs <;> rfl

theorem clearAllKeys_of_halted {s : State} (h : s.mode = .halted) : clearAllKeys s = s := if_pos h

theorem clearAllKeys_of_not_halted {s : State} (h : s.mode ≠ .halted) :
    clearAllKeys s = { s with keys := Vector.replicate 16 false } := if_neg h

/-! ## The sound query -/

theorem shouldPlaySound_eq_true_iff (s : State) : shouldPlaySound s = true ↔ 1 < s.st.toNat := decide_eq_true_iff

/-! ## The obligations -/

/-- Settles O14: the latch is in the frame of every instruction, so a step keeps it, and `load` writes only memory. -/
theorem latchWrittenByHostCallsOnly : Obligations.LatchWrittenByHostCallsOnly := by
  refine ⟨fun i s t h => (instrFrame_of_exec h).keys_eq, fun op s hne => ?_⟩
  cases op with
  | load bytes => exact absurd (load_apply_keys bytes s) hne
  | step now rnd => exact absurd (stepWith_keys now rnd s) hne
  | setKey k pressed => exact .inr ⟨k, pressed, rfl⟩
  | clearAllKeys => exact .inl rfl

/-- Settles O59, from the two equations of `clearAllKeys`: in a state that is not Halted, and in mode Halted. -/
theorem clearAllKeysReleasesEveryKey : Obligations.ClearAllKeysReleasesEveryKey := by
  refine fun s => ⟨fun hm => ?_, clearAllKeys_of_halted⟩
  rw [clearAllKeys_of_not_halted hm]
  exact ⟨fun k hk => Vector.getElem_replicate hk, rfl⟩

/-- Settles O60: the query is the comparison itself, and the values 0 and 1 of ST are not above 1. -/
theorem soundWhileTimerAboveOne : Obligations.SoundWhileTimerAboveOne := by
  refine fun s => ⟨shouldPlaySound_eq_true_iff s, fun hst => ?_⟩
  rw [← Bool.not_eq_true, shouldPlaySound_eq_true_iff]
  rcases hst with hst | hst
  · rw [hst]
    decide
  · rw [hst]
    decide

end Sys2Proof.Machine
end

section
/-! PROOFS. Encoding (spec/30_encoding.md): the decoder, the encoder and the opcode map say the same. -/

namespace Sys2Proof

open Sys2Proof.Machine (opcodeMap)

/-! ## Decoding what was encoded -/

/-- The decoder reads every instruction from its own word: the family RoundTrip, constructor by constructor (R304, R305). -/
theorem decodeWord_encode (i : Instr) : decodeWord (encode i) = some i := by
  cases i with
  | cls => exact Laws.RoundTrip.cls.2
  | ret => exact Laws.RoundTrip.ret.2
  | jp nnn => exact (Laws.RoundTrip.jp nnn).2
  | call nnn => exact (Laws.RoundTrip.call nnn).2
  | seByte x nn => exact (Laws.RoundTrip.seByte x nn).2
  | sneByte x nn => exact (Laws.RoundTrip.sneByte x nn).2
  | seReg x y => exact (Laws.RoundTrip.seReg x y).2
  | ldByte x nn => exact (Laws.RoundTrip.ldByte x nn).2
  | addByte x nn => exact (Laws.RoundTrip.addByte x nn).2
  | ldReg x y => exact (Laws.RoundTrip.ldReg x y).2
  | orReg x y => exact (Laws.RoundTrip.orReg x y).2
  | andReg x y => exact (Laws.RoundTrip.andReg x y).2
  | xorReg x y => exact (Laws.RoundTrip.xorReg x y).2
  | addReg x y => exact (Laws.RoundTrip.addReg x y).2
  | subReg x y => exact (Laws.RoundTrip.subReg x y).2
  | shrReg x y => exact (Laws.RoundTrip.shrReg x y).2
  | subnReg x y => exact (Laws.RoundTrip.subnReg x y).2
  | shlReg x y => exact (Laws.RoundTrip.shlReg x y).2
  | sneReg x y => exact (Laws.RoundTrip.sneReg x y).2
  | ldI nnn => exact (Laws.RoundTrip.ldI nnn).2
  | jpV0 nnn => exact (Laws.RoundTrip.jpV0 nnn).2
  | rnd x nn => exact (Laws.RoundTrip.rnd x nn).2
  | drw x y n => exact (Laws.RoundTrip.drw x y n).2
  | skp x => exact (Laws.RoundTrip.skp x).2
  | sknp x => exact (Laws.RoundTrip.sknp x).2
  | ldVxDT x => exact (Laws.RoundTrip.ldVxDT x).2
  | ldVxK x => exact (Laws.RoundTrip.ldVxK x).2
  | ldDTVx x => exact (Laws.RoundTrip.ldDTVx x).2
  | ldSTVx x => exact (Laws.RoundTrip.ldSTVx x).2
  | addI x => exact (Laws.RoundTrip.addI x).2
  | ldF x => exact (Laws.RoundTrip.ldF x).2
  | ldB x => exact (Laws.RoundTrip.ldB x).2
  | stRegs x => exact (Laws.RoundTrip.stRegs x).2
  | ldRegs x => exact (Laws.RoundTrip.ldRegs x).2

/-- The two bytes of a word that decodes, at the front of any bytes, give its instruction and leave the rest (R202, R308). -/
theorem decode_bytesOfWord_append {w : Word} {i : Instr} (h : decodeWord w = some i) (rest : List Byte) :
    decode (bytesOfWord w ++ rest) = .ok (i, rest) := by
  simp only [bytesOfWord, List.cons_append, List.nil_append, decode, wordOfBytes_split, h]

/-! ## The masks of the opcode map -/

section masks

variable (w : Word)

theorem fieldX_and {m : Word} (h : m.extractLsb' 8 4 = 0#4) : fieldX (w &&& m) = 0 := by
  simp only [fieldX, BitVec.extractLsb'_and, h, BitVec.and_zero]
  rfl

theorem fieldY_and {m : Word} (h : m.extractLsb' 4 4 = 0#4) : fieldY (w &&& m) = 0 := by
  simp only [fieldY, BitVec.extractLsb'_and, h, BitVec.and_zero]
  rfl

theorem fieldOp_and {m : Word} (h : m.extractLsb' 12 4 = BitVec.allOnes 4) : fieldOp (w &&& m) = fieldOp w := by
  simp only [fieldOp, BitVec.extractLsb'_and, h, BitVec.and_allOnes]

theorem fieldN_and {m : Word} (h : m.extractLsb' 0 4 = BitVec.allOnes 4) : fieldN (w &&& m) = fieldN w := by
  simp only [fieldN, BitVec.extractLsb'_and, h, BitVec.and_allOnes]

theorem fieldNN_and {m : Word} (h : m.extractLsb' 0 8 = BitVec.allOnes 8) : fieldNN (w &&& m) = fieldNN w := by
  simp only [fieldNN, BitVec.extractLsb'_and, h, BitVec.and_allOnes]

theorem fieldNNN_and {m : Word} (h : m.extractLsb' 0 12 = 0#12) : fieldNNN (w &&& m) = 0#12 := by
  simp only [fieldNNN, BitVec.extractLsb'_and, h, BitVec.and_zero]

/-- The mask 0xF000 leaves the field `op` (R301, R304). -/
theorem and_F000_eq : w &&& 0xF000#16 = packNNN (fieldOp w) 0#12 := by
  rw [← packNNN_fields (w &&& 0xF000#16), fieldOp_and w (by decide), fieldNNN_and w (by decide)]

/-- The mask 0xF00F leaves the fields `op` and `N` (R301, R304). -/
theorem and_F00F_eq : w &&& 0xF00F#16 = packXYN (fieldOp w) 0 0 (fieldN w) := by
  rw [← packXYN_fields (w &&& 0xF00F#16), fieldOp_and w (by decide), fieldX_and w (by decide), fieldY_and w (by decide),
    fieldN_and w (by decide)]

/-- The mask 0xF0FF leaves the fields `op` and `NN` (R301, R304). -/
theorem and_F0FF_eq : w &&& 0xF0FF#16 = packXNN (fieldOp w) 0 (fieldNN w) := by
  rw [← packXNN_fields (w &&& 0xF0FF#16), fieldOp_and w (by decide), fieldX_and w (by decide), fieldNN_and w (by decide)]

end masks

/-! ## A row of the opcode map, from the word it selects -/

section rows

variable {w : Word} (op : BitVec 4) (n : Fin 16) (nn : Byte)

theorem fieldOp_of_and_F000 {op : BitVec 4} (h : w &&& 0xF000#16 = packNNN op 0#12) : fieldOp w = op := by
  rw [and_F000_eq] at h
  simpa using congrArg fieldOp h

theorem packNNN_of_row (h : w &&& 0xF000#16 = packNNN op 0#12) : packNNN op (fieldNNN w) = w := by
  rw [← fieldOp_of_and_F000 h, packNNN_fields]

theorem packXNN_of_row (h : w &&& 0xF000#16 = packNNN op 0#12) : packXNN op (fieldX w) (fieldNN w) = w := by
  rw [← fieldOp_of_and_F000 h, packXNN_fields]

theorem packXYN_of_row (h : w &&& 0xF000#16 = packNNN op 0#12) : packXYN op (fieldX w) (fieldY w) (fieldN w) = w := by
  rw [← fieldOp_of_and_F000 h, packXYN_fields]

theorem packXY_of_row (h : w &&& 0xF00F#16 = packXYN op 0 0 n) : packXYN op (fieldX w) (fieldY w) n = w := by
  rw [and_F00F_eq] at h
  have hop : fieldOp w = op := by simpa using congrArg fieldOp h
  have hn : fieldN w = n := by simpa using congrArg fieldN h
  rw [← hop, ← hn, packXYN_fields]

theorem packX_of_row (h : w &&& 0xF0FF#16 = packXNN op 0 nn) : packXNN op (fieldX w) nn = w := by
  rw [and_F0FF_eq] at h
  have hop : fieldOp w = op := by simpa using congrArg fieldOp h
  have hnn : fieldNN w = nn := by simpa using congrArg fieldNN h
  rw [← hop, ← hnn, packXNN_fields]

theorem word_of_row (m : Word) (h : w &&& 0xFFFF#16 = m) : m = w :=
  h ▸ BitVec.and_allOnes

end rows

/-- The instruction of a row that selects a word encodes to this word, row by row in the order of the map. -/
theorem encode_of_mem_opcodeMap (w : Word) : ∀ row ∈ opcodeMap, w &&& row.1 = row.2.1 → encode (row.2.2 w) = w := by
  simp only [opcodeMap, List.forall_mem_append, List.forall_mem_cons]
  exact ⟨⟨⟨⟨word_of_row 0x00E0, word_of_row 0x00EE, packNNN_of_row 0x1, packNNN_of_row 0x2, packXNN_of_row 0x3,
          packXNN_of_row 0x4, packXY_of_row 0x5 0x0, packXNN_of_row 0x6, packXNN_of_row 0x7, List.forall_mem_nil _⟩,
        packXY_of_row 0x8 0x0, packXY_of_row 0x8 0x1, packXY_of_row 0x8 0x2, packXY_of_row 0x8 0x3, packXY_of_row 0x8 0x4,
          packXY_of_row 0x8 0x5, packXY_of_row 0x8 0x6, packXY_of_row 0x8 0x7, packXY_of_row 0x8 0xE,
          packXY_of_row 0x9 0x0, List.forall_mem_nil _⟩,
      packNNN_of_row 0xA, packNNN_of_row 0xB, packXNN_of_row 0xC, packXYN_of_row 0xD, packX_of_row 0xE 0x9E,
        packX_of_row 0xE 0xA1, List.forall_mem_nil _⟩,
    packX_of_row 0xF 0x07, packX_of_row 0xF 0x0A, packX_of_row 0xF 0x15, packX_of_row 0xF 0x18, packX_of_row 0xF 0x1E,
      packX_of_row 0xF 0x29, packX_of_row 0xF 0x33, packX_of_row 0xF 0x55, packX_of_row 0xF 0x65, List.forall_mem_nil _⟩

/-! ## The row of a word that decodes -/

section selects

variable {w : Word}

theorem and_F000_of_op (op : BitVec 4) (h : (fieldOp w).toNat = op.toNat) : w &&& 0xF000#16 = packNNN op 0#12 := by
  rw [and_F000_eq, BitVec.eq_of_toNat_eq h]

theorem and_F00F_of_op (op : BitVec 4) (n : Fin 16) (h : (fieldOp w).toNat = op.toNat) (hn : (fieldN w).val = n.val) :
    w &&& 0xF00F#16 = packXYN op 0 0 n := by
  rw [and_F00F_eq, BitVec.eq_of_toNat_eq h, Fin.ext hn]

theorem and_F0FF_of_op (op : BitVec 4) (nn : Byte) (h : (fieldOp w).toNat = op.toNat) (hnn : fieldNN w = nn) :
    w &&& 0xF0FF#16 = packXNN op 0 nn := by
  rw [and_F0FF_eq, BitVec.eq_of_toNat_eq h, hnn]

/-- Some row of the opcode map selects the word and gives the instruction. -/
def Selected (w : Word) (i : Instr) : Prop := ∃ row ∈ opcodeMap, w &&& row.1 = row.2.1 ∧ row.2.2 w = i

/-- Row `k` of the 34 rows of the map, counted from 0 (R304). -/
theorem selected_of_getElem (k : Fin 34) (h : w &&& opcodeMap[k].1 = opcodeMap[k].2.1) :
    Selected w (opcodeMap[k].2.2 w) :=
  ⟨opcodeMap[k], List.getElem_mem k.isLt, h, rfl⟩

theorem selected_of_decodeFamily8 {i : Instr} (hop : (fieldOp w).toNat = 0x8) (h : decodeFamily8 w = some i) :
    Selected w i := by
  unfold decodeFamily8 at h
  split at h
  next hn => cases h; exact selected_of_getElem 9 (and_F00F_of_op 0x8 0x0 hop hn)
  next hn => cases h; exact selected_of_getElem 10 (and_F00F_of_op 0x8 0x1 hop hn)
  next hn => cases h; exact selected_of_getElem 11 (and_F00F_of_op 0x8 0x2 hop hn)
  next hn => cases h; exact selected_of_getElem 12 (and_F00F_of_op 0x8 0x3 hop hn)
  next hn => cases h; exact selected_of_getElem 13 (and_F00F_of_op 0x8 0x4 hop hn)
  next hn => cases h; exact selected_of_getElem 14 (and_F00F_of_op 0x8 0x5 hop hn)
  next hn => cases h; exact selected_of_getElem 15 (and_F00F_of_op 0x8 0x6 hop hn)
  next hn => cases h; exact selected_of_getElem 16 (and_F00F_of_op 0x8 0x7 hop hn)
  next hn => cases h; exact selected_of_getElem 17 (and_F00F_of_op 0x8 0xE hop hn)
  next => cases h

theorem selected_of_decodeFamilyF {i : Instr} (hop : (fieldOp w).toNat = 0xF) (h : decodeFamilyF w = some i) :
    Selected w i := by
  unfold decodeFamilyF at h
  split_ifs at h
  next hnn => cases h; exact selected_of_getElem 25 (and_F0FF_of_op 0xF 0x07 hop hnn)
  next hnn => cases h; exact selected_of_getElem 26 (and_F0FF_of_op 0xF 0x0A hop hnn)
  next hnn => cases h; exact selected_of_getElem 27 (and_F0FF_of_op 0xF 0x15 hop hnn)
  next hnn => cases h; exact selected_of_getElem 28 (and_F0FF_of_op 0xF 0x18 hop hnn)
  next hnn => cases h; exact selected_of_getElem 29 (and_F0FF_of_op 0xF 0x1E hop hnn)
  next hnn => cases h; exact selected_of_getElem 30 (and_F0FF_of_op 0xF 0x29 hop hnn)
  next hnn => cases h; exact selected_of_getElem 31 (and_F0FF_of_op 0xF 0x33 hop hnn)
  next hnn => cases h; exact selected_of_getElem 32 (and_F0FF_of_op 0xF 0x55 hop hnn)
  next hnn => cases h; exact selected_of_getElem 33 (and_F0FF_of_op 0xF 0x65 hop hnn)

/-- A word that decodes is selected by the row of the arm that decodes it. -/
theorem selected_of_decodeWord {i : Instr} (h : decodeWord w = some i) : Selected w i := by
  unfold decodeWord at h
  split at h
  next =>
    split_ifs at h with hcls hret
    · cases h; exact selected_of_getElem 0 (hcls ▸ rfl)
    · cases h; exact selected_of_getElem 1 (hret ▸ rfl)
  next hop => cases h; exact selected_of_getElem 2 (and_F000_of_op 0x1 hop)
  next hop => cases h; exact selected_of_getElem 3 (and_F000_of_op 0x2 hop)
  next hop => cases h; exact selected_of_getElem 4 (and_F000_of_op 0x3 hop)
  next hop => cases h; exact selected_of_getElem 5 (and_F000_of_op 0x4 hop)
  next hop =>
    split_ifs at h with hn
    cases h; exact selected_of_getElem 6 (and_F00F_of_op 0x5 0x0 hop hn)
  next hop => cases h; exact selected_of_getElem 7 (and_F000_of_op 0x6 hop)
  next hop => cases h; exact selected_of_getElem 8 (and_F000_of_op 0x7 hop)
  next hop => exact selected_of_decodeFamily8 hop h
  next hop =>
    split_ifs at h with hn
    cases h; exact selected_of_getElem 18 (and_F00F_of_op 0x9 0x0 hop hn)
  next hop => cases h; exact selected_of_getElem 19 (and_F000_of_op 0xA hop)
  next hop => cases h; exact selected_of_getElem 20 (and_F000_of_op 0xB hop)
  next hop => cases h; exact selected_of_getElem 21 (and_F000_of_op 0xC hop)
  next hop => cases h; exact selected_of_getElem 22 (and_F000_of_op 0xD hop)
  next hop =>
    split_ifs at h with hskp hsknp
    · cases h; exact selected_of_getElem 23 (and_F0FF_of_op 0xE 0x9E hop hskp)
    · cases h; exact selected_of_getElem 24 (and_F0FF_of_op 0xE 0xA1 hop hsknp)
  next =>
    refine selected_of_decodeFamilyF ?_ h
    have := (fieldOp w).isLt
    simp only [imp_false] at *
    omega

end selects

/-! ## The rows are disjoint -/

/-- Two rows that select one word agree on the bits that both masks keep. -/
theorem match_and_mask_eq {w a b ma mb : Word} (ha : w &&& ma = a) (hb : w &&& mb = b) : a &&& mb = b &&& ma := by
  rw [← ha, ← hb, BitVec.and_assoc, BitVec.and_assoc, BitVec.and_comm ma]

/-- Any two rows differ on a bit that both masks keep. -/
theorem opcodeMap_pairwise_ne : opcodeMap.Pairwise fun a b => a.2.1 &&& b.1 ≠ b.2.1 &&& a.1 := by decide

/-! ## The obligations -/

/-- Settles O1: the word by the family RoundTrip, its two bytes by the split of a word. -/
theorem decodeInvertsEncode : Obligations.DecodeInvertsEncode :=
  fun i => ⟨decodeWord_encode i, decode_bytesOfWord_append (decodeWord_encode i)⟩

/-- Settles O2: a word that decodes is selected by a row, and the fields of a row's pattern give the word back. -/
theorem encodeInvertsDecode : Obligations.EncodeInvertsDecode := by
  intro w i h
  obtain ⟨row, hmem, hselects, rfl⟩ := selected_of_decodeWord h
  exact encode_of_mem_opcodeMap w row hmem hselects

/-- Settles O3: a row's instruction encodes to the word selected, so the decoder gives it; and no two rows agree on the bits that
both their masks keep. -/
theorem decodeIsOpcodeMap : Obligations.DecodeIsOpcodeMap := by
  refine ⟨fun w i => ⟨selected_of_decodeWord, ?_⟩, fun w => ?_⟩
  · rintro ⟨row, hmem, hselects, rfl⟩
    rw [← decodeWord_encode (row.2.2 w), encode_of_mem_opcodeMap w row hmem hselects]
  · exact opcodeMap_pairwise_ne.imp fun hne ⟨ha, hb⟩ => hne (match_and_mask_eq ha hb)

/-- Settles O4, by running the decoder on the words. -/
theorem specWordsDecode : Obligations.SpecWordsDecode := by
  unfold Obligations.SpecWordsDecode
  decide

end Sys2Proof
end

section
/-! PROOFS. Every instruction as one case distinction: it takes the fault the table names, or it completes (R300, R600). -/

namespace Sys2Proof.Machine

/-! ## The completed instruction -/

/-- The next state of an outcome that has one, else `s`. -/
def nextOr (s : State) : Host.Outcome State Fault Refusal → State
  | .next t => t
  | .fault _ => s
  | .refused _ => s

/-- The state after an instruction whose fault condition is not met: of those that cannot fault what `exec` answers, of the others
the effect they have in range. -/
def complete (i : Instr) (s : State) : State :=
  match i with
  | .ret => State.setPc { s with sp := ⟨s.sp.val - 1, by omega⟩ } (s.stack[s.sp.val - 1]'(by omega) + 2#16)
  | .call nnn =>
    State.setPc { s with stack := s.stack.setIfInBounds s.sp.val s.pc, sp := Fin.ofNat 17 (s.sp.val + 1) } (zext16Addr nnn)
  | .skp x => s.skipIf (s.key? (s.getV x).toNat == some true)
  | .sknp x => s.skipIf (s.key? (s.getV x).toNat == some false)
  | .addI x => (s.setIdx (s.idx + zext16Byte (s.getV x))).advance
  | .ldF x => (s.setIdx (glyphAddress (s.getV x).toNat)).advance
  | .ldB x => State.advance { s with mem := s.mem.writeBytes s.idx.toNat (bcdDigits (s.getV x)) }
  | .stRegs x =>
    (State.setIdx { s with mem := s.mem.writeBytes s.idx.toNat (s.regsUpTo x) } (s.idx + BitVec.ofNat 16 (x.val + 1))).advance
  | .ldRegs x =>
    (State.setIdx { s with v := (s.setVsFrom 0 ((List.range (x.val + 1)).map fun k => s.mem.byte (s.idx.toNat + k))).v }
      (s.idx + BitVec.ofNat 16 (x.val + 1))).advance
  | .drw x y n =>
    (State.setV { s with display := (drawingOf x y n s).1 } regF (collisionFlag (drawingOf x y n s).2)).advance.emitRender
  | i => nextOr s (exec i s)

theorem set_eq_setIfInBounds {α : Type} {n : Nat} (xs : Vector α n) {k : Nat} (a : α) (hk : k < n) :
    xs.set k a = xs.setIfInBounds k a := by
  ext j hj
  rw [Vector.getElem_set, Vector.getElem_setIfInBounds]

theorem rangeFault_of_le {a n : Nat} (h : n = 0 ∨ a + n ≤ 0x1000) : rangeFault a n = none := if_pos h

theorem rangeFault_of_not_le {a n : Nat} (h : ¬ (n = 0 ∨ a + n ≤ 0x1000)) :
    rangeFault a n = some (.addressOutOfRange, max a 0x1000) := if_neg h

/-- An instruction raises the fault that the table names, or the table names none and it completes (R600). -/
theorem exec_cases (i : Instr) (s : State) :
    (∃ kind info, faultOf i s = some (kind, info) ∧ exec i s = raise i kind info s) ∨
      (faultOf i s = none ∧ exec i s = .next (complete i s)) := by
  cases i with
  | ret =>
    rcases Nat.eq_zero_or_pos s.sp.val with hzero | hpos
    · exact .inl ⟨_, _, if_pos (Fin.ext hzero), execRet_of_zero s hzero⟩
    · exact .inr ⟨if_neg fun h => hpos.ne' (congrArg Fin.val h), execRet_of_pos s hpos⟩
  | call nnn =>
    rcases Nat.lt_or_ge s.sp.val 16 with hroom | hfull
    · refine .inr ⟨if_neg fun h => hroom.ne (congrArg Fin.val h), (execCall_of_room nnn s hroom).trans ?_⟩
      have hsp : Fin.ofNat 17 (s.sp.val + 1) = ⟨s.sp.val + 1, Nat.succ_lt_succ hroom⟩ :=
        Fin.ext (Nat.mod_eq_of_lt (by omega))
      simp only [complete, hsp, set_eq_setIfInBounds]
    · have hsp : s.sp.val = 16 := by omega
      exact .inl ⟨_, _, if_pos (Fin.ext hsp), execCall_of_full nnn s hsp⟩
  | skp x =>
    rcases Nat.lt_or_ge 15 (s.getV x).toNat with hno | hkey
    · exact .inl ⟨_, _, if_pos hno, execSkp_of_no_key x s hno⟩
    · refine .inr ⟨if_neg (Nat.not_lt.2 hkey), (execSkp_of_key x s (by omega)).trans ?_⟩
      simp [complete, s.key?_of_le hkey]
  | sknp x =>
    rcases Nat.lt_or_ge 15 (s.getV x).toNat with hno | hkey
    · exact .inl ⟨_, _, if_pos hno, execSknp_of_no_key x s hno⟩
    · refine .inr ⟨if_neg (Nat.not_lt.2 hkey), (execSknp_of_key x s (by omega)).trans ?_⟩
      simp [complete, s.key?_of_le hkey]
  | ldVxK x =>
    cases hlow : s.lowestPressed with
    | none => exact .inr ⟨rfl, by simp only [complete, exec, execLdVxK_of_none x s hlow, nextOr]⟩
    | some k => exact .inr ⟨rfl, by simp only [complete, exec, execLdVxK_of_pressed x s hlow, nextOr]⟩
  | addI x =>
    rcases Nat.lt_or_ge 0xFFFF (s.idx.toNat + (s.getV x).toNat) with hexcess | hfit
    · exact .inl ⟨_, _, if_pos hexcess, execAddI_of_excess x s hexcess⟩
    · exact .inr ⟨if_neg (Nat.not_lt.2 hfit), execAddI_of_fit x s hfit⟩
  | ldF x =>
    rcases Nat.lt_or_ge 15 (s.getV x).toNat with hno | hdigit
    · exact .inl ⟨_, _, if_pos hno, execLdF_of_no_digit x s hno⟩
    · exact .inr ⟨if_neg (Nat.not_lt.2 hdigit), execLdF_of_digit x s hdigit⟩
  | ldB x =>
    by_cases hrange : s.idx.toNat + 3 ≤ 0x1000
    · exact .inr ⟨rangeFault_of_le (.inr hrange), (execLdB_eq x s).trans (if_pos hrange)⟩
    · exact .inl ⟨_, _, rangeFault_of_not_le (by omega), (execLdB_eq x s).trans (if_neg hrange)⟩
  | stRegs x =>
    by_cases hrange : s.idx.toNat + (x.val + 1) ≤ 0x1000
    · exact .inr ⟨rangeFault_of_le (.inr hrange), (execStRegs_eq x s).trans (if_pos hrange)⟩
    · exact .inl ⟨_, _, rangeFault_of_not_le (by omega), (execStRegs_eq x s).trans (if_neg hrange)⟩
  | ldRegs x =>
    by_cases hrange : s.idx.toNat + (x.val + 1) ≤ 0x1000
    · refine .inr ⟨rangeFault_of_le (.inr hrange), (execLdRegs_eq x s).trans ((if_pos hrange).trans ?_)⟩
      rw [State.setVsFrom_eq]
      rfl
    · exact .inl ⟨_, _, rangeFault_of_not_le (by omega), (execLdRegs_eq x s).trans (if_neg hrange)⟩
  | drw x y n =>
    by_cases hrange : n.val = 0 ∨ s.idx.toNat + n.val ≤ 0x1000
    · exact .inr ⟨rangeFault_of_le hrange, (execDrw_eq x y n s).trans (if_pos hrange)⟩
    · exact .inl ⟨_, _, rangeFault_of_not_le hrange, (execDrw_eq x y n s).trans (if_neg hrange)⟩
  | cls | jp | jpV0 | seByte | sneByte | seReg | sneReg | ldByte | addByte | ldReg | orReg | andReg | xorReg | addReg
  | subReg | shrReg | subnReg | shlReg | ldI | rnd | ldVxDT | ldDTVx | ldSTVx => exact .inr ⟨rfl, rfl⟩

theorem exec_of_faultOf_eq_some {i : Instr} {s : State} {kind : Cause} {info : Nat} (h : faultOf i s = some (kind, info)) :
    exec i s = raise i kind info s := by
  obtain ⟨k, n, hfault, hexec⟩ | ⟨hnone, -⟩ := exec_cases i s
  · cases hfault.symm.trans h
    exact hexec
  · cases hnone.symm.trans h

theorem exec_of_faultOf_eq_none {i : Instr} {s : State} (h : faultOf i s = none) : exec i s = .next (complete i s) := by
  obtain ⟨k, n, hfault, -⟩ | ⟨-, hexec⟩ := exec_cases i s
  · cases hfault.symm.trans h
  · exact hexec

/-- The next state of an instruction: halted by the fault the table names, or completed where it names none. -/
theorem exec_eq_next {i : Instr} {s t : State} (h : exec i s = .next t) :
    (∃ kind info, faultOf i s = some (kind, info) ∧ t = s.halt kind (some (encode i)) info) ∨
      (faultOf i s = none ∧ t = complete i s) := by
  obtain ⟨k, n, hfault, hexec⟩ | ⟨hnone, hexec⟩ := exec_cases i s
  · cases hexec.symm.trans h
    exact .inl ⟨k, n, hfault, rfl⟩
  · cases hexec.symm.trans h
    exact .inr ⟨hnone, rfl⟩

/-! ## What a completed instruction does, field by field -/

/-- The wait for a key: none is pressed and the mode becomes AwaitingKey, or the lowest pressed one is stored (R526). -/
theorem complete_ldVxK_cases (x : Reg) (s : State) :
    (s.lowestPressed = none ∧ complete (.ldVxK x) s = { s with mode := .awaitingKey }) ∨
      ∃ k, s.lowestPressed = some k ∧
        complete (.ldVxK x) s = State.advance { s.setV x (BitVec.ofNat 8 k) with mode := .running } := by
  simp only [complete, exec]
  cases h : s.lowestPressed with
  | none => exact .inl ⟨rfl, by rw [execLdVxK_of_none x s h, nextOr]⟩
  | some k => exact .inr ⟨k, rfl, by rw [execLdVxK_of_pressed x s h, nextOr]⟩

theorem complete_ldVxK_frame (x : Reg) (s : State) :
    complete (.ldVxK x) s =
      { s with v := (complete (.ldVxK x) s).v, mode := (complete (.ldVxK x) s).mode, pc := (complete (.ldVxK x) s).pc } := by
  obtain ⟨-, h⟩ | ⟨k, -, h⟩ := complete_ldVxK_cases x s
  · rw [h]
  · rw [h]; rfl

@[simp] theorem complete_fault (i : Instr) (s : State) : (complete i s).fault = s.fault := by
  cases i with
  | ldVxK x => rw [complete_ldVxK_frame]
  | _ => rfl

/-- Only `FX0A` sets the mode, and only its wait sets AwaitingKey, with all else in place (R120, R526). -/
theorem complete_mode_cases (i : Instr) (s : State) :
    (complete i s).mode = s.mode ∨
      ∃ x, i = .ldVxK x ∧ ((complete i s).mode = .running ∨ complete i s = { s with mode := .awaitingKey }) := by
  cases i with
  | ldVxK x =>
    obtain ⟨-, h⟩ | ⟨k, -, h⟩ := complete_ldVxK_cases x s
    · exact .inr ⟨x, rfl, .inr h⟩
    · exact .inr ⟨x, rfl, .inl (by rw [h]; rfl)⟩
  | _ => exact .inl rfl

theorem complete_mode_ne_halted {s : State} (h : s.mode ≠ .halted) (i : Instr) : (complete i s).mode ≠ .halted := by
  obtain hmode | ⟨x, -, hmode | hwait⟩ := complete_mode_cases i s
  · rwa [hmode]
  · rw [hmode]; decide
  · rw [hwait]; exact Mode.noConfusion

/-- A completed instruction keeps every register that is not named for it (R101, R102). -/
theorem complete_getV {i : Instr} {r : Reg} (hr : writesReg i r = false) (s : State) :
    (complete i s).getV r = s.getV r := by
  cases i with
  | ldByte | addByte | ldReg | orReg | andReg | xorReg | rnd | ldVxDT =>
    exact (State.getV_setV ..).trans (if_neg (by simpa [writesReg] using hr))
  | drw => exact (State.getV_setV ..).trans (if_neg (by simpa [writesReg] using hr))
  | addReg | subReg | shrReg | subnReg | shlReg =>
    simp only [writesReg, Bool.or_eq_false_iff, beq_eq_false_iff_ne] at hr
    exact (State.getV_setVWithFlag ..).trans ((if_neg hr.2).trans (if_neg hr.1))
  | ldVxK x =>
    obtain ⟨-, h⟩ | ⟨k, -, h⟩ := complete_ldVxK_cases x s
    · rw [h]; rfl
    · rw [h]
      exact (State.getV_setV ..).trans (if_neg (by simpa [writesReg] using hr))
  | ldRegs x =>
    simp only [writesReg, decide_eq_false_iff_not, Nat.not_le] at hr
    refine (State.getV_setVsFrom ..).trans ?_
    rw [if_pos (Nat.zero_le _), List.getElem?_eq_none (by simp; omega), Option.getD_none]
  | cls | ret | jp | call | seByte | sneByte | seReg | sneReg | ldI | jpV0 | skp | sknp | ldDTVx | ldSTVx | addI | ldF | ldB
  | stRegs => rfl

/-- Only `DXYN` emits a render event (R639). -/
theorem complete_renders {i : Instr} (hi : ∀ x y n, i ≠ .drw x y n) (s : State) : (complete i s).renders = s.renders := by
  cases i with
  | drw x y n => exact absurd rfl (hi x y n)
  | ldVxK x => rw [complete_ldVxK_frame]
  | _ => rfl

theorem complete_drw_renders (x y : Reg) (n : Fin 16) (s : State) :
    (complete (.drw x y n) s).renders = (complete (.drw x y n) s).display :: s.renders := rfl

/-- Only CALL and RET move the stack (R107, R108). -/
theorem complete_stack_cases (i : Instr) (s : State) :
    ((complete i s).sp = s.sp ∧ (complete i s).stack = s.stack) ∨ (∃ nnn, i = .call nnn) ∨ i = .ret := by
  cases i with
  | call nnn => exact .inr (.inl ⟨nnn, rfl⟩)
  | ret => exact .inr (.inr rfl)
  | ldVxK x => rw [complete_ldVxK_frame]; exact .inl ⟨rfl, rfl⟩
  | _ => exact .inl ⟨rfl, rfl⟩

/-- Only `FX33` and `FX55` write memory (R200). -/
theorem complete_mem_cases (i : Instr) (s : State) :
    (complete i s).mem = s.mem ∨ (∃ x, i = .ldB x) ∨ ∃ x, i = .stRegs x := by
  cases i with
  | ldB x => exact .inr (.inl ⟨x, rfl⟩)
  | stRegs x => exact .inr (.inr ⟨x, rfl⟩)
  | ldVxK x => rw [complete_ldVxK_frame]; exact .inl rfl
  | _ => exact .inl rfl

/-- Only `FX15` writes DT, and only `FX18` ST (R522, R523). -/
theorem complete_timer_cases (i : Instr) (s : State) :
    ((complete i s).dt = s.dt ∨ ∃ x, i = .ldDTVx x) ∧ ((complete i s).st = s.st ∨ ∃ x, i = .ldSTVx x) := by
  cases i with
  | ldDTVx x => exact ⟨.inr ⟨x, rfl⟩, .inl rfl⟩
  | ldSTVx x => exact ⟨.inl rfl, .inr ⟨x, rfl⟩⟩
  | ldVxK x => rw [complete_ldVxK_frame]; exact ⟨.inl rfl, .inl rfl⟩
  | _ => exact ⟨.inl rfl, .inl rfl⟩

end Sys2Proof.Machine
end

section
/-! PROOFS. The whole-machine rules (spec/10_state.md, spec/60_exceptions.md): faults, the PC, and what an instruction leaves alone. -/

namespace Sys2Proof.Machine

/-! ## Ranges -/

theorem rangeFault_eq_none_iff {a n : Nat} : rangeFault a n = none ↔ n = 0 ∨ a + n ≤ 0x1000 := by
  refine ⟨fun h => ?_, rangeFault_of_le⟩
  by_contra hn
  rw [rangeFault_of_not_le hn] at h
  cases h

/-- A run of writes changes no byte outside its range. -/
theorem Memory.mem_range_of_byte_writeBytes_ne {m : Memory} (hwf : m.wf = true) {a a' : Nat} {bs : List Byte}
    (hr : bs.length = 0 ∨ a + bs.length ≤ 0x1000) (hne : (m.writeBytes a bs).byte a' ≠ m.byte a') :
    a ≤ a' ∧ a' < a + bs.length := by
  rw [byte_writeBytes hwf hr] at hne
  by_contra hout
  apply hne
  by_cases ha : a ≤ a'
  · rw [if_pos ha, List.getElem?_eq_none (by omega), Option.getD_none]
  · rw [if_neg ha]

theorem length_bcdDigits (v : Byte) : (bcdDigits v).length = 3 := rfl

/-! ## The skips -/

theorem skipIf_pc (s : State) {c : Bool} {p : Prop} (h : c = true ↔ p) :
    (p → (s.skipIf c).pc = s.pc + 4#16) ∧ (¬ p → (s.skipIf c).pc = s.pc + 2#16) := by
  cases c with
  | true => exact ⟨fun _ => rfl, fun hp => absurd (h.1 rfl) hp⟩
  | false => exact ⟨fun hp => absurd (h.2 hp) Bool.false_ne_true, fun _ => rfl⟩

/-! ## The clock, the draw and the mode are not read -/

theorem State.setVsFrom_v_congr {s t : State} (h : s.v = t.v) (k : Nat) (bs : List Byte) :
    (s.setVsFrom k bs).v = (t.setVsFrom k bs).v := by
  induction bs generalizing s t k with
  | nil => exact h
  | cons b bs ih =>
    refine ih ?_ (k + 1)
    show s.v.setIfInBounds k b = t.v.setIfInBounds k b
    rw [h]

/-- The state with the clock, the count of steps, the draw, the mode and the fault record set. -/
def State.withOutside (s : State) (lastTick now stepCount : Nat) (rnd : Byte) (mode : Mode) (fault : Option FaultRecord) :
    State :=
  { s with lastTick := lastTick, now := now, stepCount := stepCount, rnd := rnd, mode := mode, fault := fault }

section outside

variable (s : State) (a b n : Nat) (r : Byte) (m : Mode) (f : Option FaultRecord)

theorem lowestPressed_withOutside : (s.withOutside a b n r m f).lowestPressed = s.lowestPressed := rfl

theorem faultOf_withOutside (i : Instr) : faultOf i (s.withOutside a b n r m f) = faultOf i s := by
  cases i <;> rfl

/-- Completed instructions ignore what is set from outside, but for the draw that `CXNN` reads; the mode after them is theirs or
the one set. -/
theorem complete_withOutside {i : Instr} (hr : (∀ x nn, i ≠ .rnd x nn) ∨ r = s.rnd) :
    complete i (s.withOutside a b n r m f) =
      (complete i s).withOutside a b n r (complete i (s.withOutside a b n r m f)).mode f := by
  cases i with
  | rnd x nn =>
    obtain hne | rfl := hr
    · exact absurd rfl (hne x nn)
    · rfl
  | ldRegs x =>
    simp only [complete]
    rw [State.setVsFrom_v_congr (s := s.withOutside a b n r m f) (t := s) rfl]
    rfl
  | ldVxK x =>
    simp only [complete, exec, execLdVxK, lowestPressed_withOutside]
    cases s.lowestPressed with
    | none => rfl
    | some k => rfl
  | _ => rfl

theorem complete_withOutside_mode (i : Instr) :
    (complete i (s.withOutside a b n r s.mode f)).mode = (complete i s).mode := by
  cases i with
  | ldVxK x =>
    simp only [complete, exec, execLdVxK, lowestPressed_withOutside]
    cases s.lowestPressed with
    | none => rfl
    | some k => rfl
  | _ => rfl

/-- An instruction does the same whatever is set from outside, and leaves it, but for the mode and the record; those it sets as
before where they are as before. -/
theorem exec_withOutside {i : Instr} {t : State} (hr : (∀ x nn, i ≠ .rnd x nn) ∨ r = s.rnd) (h : exec i s = .next t) :
    ∃ u, exec i (s.withOutside a b n r m f) = .next u ∧ u = t.withOutside a b n r u.mode u.fault ∧
      (m = s.mode → f = s.fault → u.mode = t.mode ∧ u.fault = t.fault) := by
  obtain ⟨kind, info, hfault, rfl⟩ | ⟨hnone, rfl⟩ := exec_eq_next h
  · exact ⟨_, exec_of_faultOf_eq_some ((faultOf_withOutside s a b n r m f i).trans hfault), rfl, fun _ _ => ⟨rfl, rfl⟩⟩
  · refine ⟨_, exec_of_faultOf_eq_none ((faultOf_withOutside s a b n r m f i).trans hnone), ?_, ?_⟩
    · rw [complete_fault]
      exact complete_withOutside s a b n r m f hr
    · rintro rfl rfl
      exact ⟨complete_withOutside_mode s a b n r s.fault i, by rw [complete_fault, complete_fault]; rfl⟩

end outside

theorem InstrFrame.clock_eq {s t : State} (h : InstrFrame s t) :
    t.lastTick = s.lastTick ∧ t.now = s.now ∧ t.stepCount = s.stepCount := by
  rw [InstrFrame] at h
  rw [h]
  exact ⟨rfl, rfl, rfl⟩

theorem InstrFrame.rnd_eq {s t : State} (h : InstrFrame s t) : t.rnd = s.rnd := by
  rw [InstrFrame] at h
  rw [h]

/-! ## The stack faults -/

theorem sp_lt_of_faultOf_call {nnn : Addr12} {s : State} (h : faultOf (.call nnn) s = none) : s.sp.val < 16 := by
  by_contra hfull
  have hsp : s.sp = 16 := Fin.ext (show s.sp.val = 16 by omega)
  rw [faultOf, if_pos hsp] at h
  cases h

theorem sp_pos_of_faultOf_ret {s : State} (h : faultOf .ret s = none) : 0 < s.sp.val := by
  by_contra hzero
  have hsp : s.sp = 0 := Fin.ext (show s.sp.val = 0 by omega)
  rw [faultOf, if_pos hsp] at h
  cases h


/-! ## The cycle -/

theorem cause_of_ite_eq_some {p : Prop} [Decidable p] {c kind : Cause} {j info : Nat}
    (h : (if p then some (c, j) else none) = some (kind, info)) : kind = c := by
  split at h
  · cases h; rfl
  · cases h

theorem cause_of_rangeFault {a n info : Nat} {kind : Cause} (h : rangeFault a n = some (kind, info)) :
    kind = .addressOutOfRange := by
  rw [rangeFault, ← ite_not] at h
  exact cause_of_ite_eq_some h

/-- `RomTooLarge` is a reply of `load` and no fault of an instruction (R607). -/
theorem faultOf_ne_romTooLarge {i : Instr} {s : State} {kind : Cause} {info : Nat} (h : faultOf i s = some (kind, info)) :
    kind ≠ .romTooLarge := by
  cases i with
  | ret | call | skp | sknp | addI | ldF => rw [cause_of_ite_eq_some h]; decide
  | ldB | stRegs | ldRegs | drw => rw [cause_of_rangeFault h]; decide
  | _ => cases h

/-- The cycle halts the machine, or completes the instruction it has fetched and decoded. -/
theorem fetchDecodeExecute_eq_next {s u : State} (h : fetchDecodeExecute s = .next u) :
    (∃ kind opcode info, kind ≠ .romTooLarge ∧ u = s.halt kind opcode info) ∨
      ∃ w i, s.fetch = .ok w ∧ decodeWord w = some i ∧ faultOf i s = none ∧ u = complete i s := by
  obtain ⟨bad, -, hfetch⟩ | ⟨w, -, -, hword⟩ | ⟨w, i, hf, hd, hexec⟩ := fetchDecodeExecute_cases s
  · cases hfetch.symm.trans h
    exact .inl ⟨_, _, _, by decide, rfl⟩
  · cases hword.symm.trans h
    exact .inl ⟨_, _, _, by decide, rfl⟩
  · obtain ⟨kind, info, hfault, rfl⟩ | ⟨hnone, rfl⟩ := exec_eq_next (hexec.symm.trans h)
    · exact .inl ⟨_, _, _, faultOf_ne_romTooLarge hfault, rfl⟩
    · exact .inr ⟨w, i, hf, hd, hnone, rfl⟩

theorem fetchDecodeExecute_timers {s u : State} (h : fetchDecodeExecute s = .next u) :
    (u.dt = s.dt ∨ ∃ w x, s.fetch = .ok w ∧ decodeWord w = some (.ldDTVx x)) ∧
      (u.st = s.st ∨ ∃ w x, s.fetch = .ok w ∧ decodeWord w = some (.ldSTVx x)) := by
  obtain ⟨kind, opcode, info, -, rfl⟩ | ⟨w, i, hf, hd, -, rfl⟩ := fetchDecodeExecute_eq_next h
  · exact ⟨.inl rfl, .inl rfl⟩
  · obtain ⟨hdt, hst⟩ := complete_timer_cases i s
    exact ⟨hdt.imp_right fun ⟨x, hi⟩ => ⟨w, x, hf, hi ▸ hd⟩, hst.imp_right fun ⟨x, hi⟩ => ⟨w, x, hf, hi ▸ hd⟩⟩

/-- A timer stays where no decrement is due or it is 0, and else drops by 1 (R620). -/
theorem decayTimer_cases (due : Bool) (t : Byte) :
    decayTimer due t = t ∨ (decayTimer due t).toNat + 1 = t.toNat := by
  have h := decayTimer_toNat due t
  cases due with
  | false => exact .inl (BitVec.eq_of_toNat_eq h)
  | true =>
    rw [if_pos rfl] at h
    rcases Nat.eq_zero_or_pos t.toNat with hzero | hpos
    · exact .inl (BitVec.eq_of_toNat_eq (by omega))
    · exact .inr (by omega)

/-! ## The obligations -/

/-- Settles O9: `exec` raises what the table names, and raising is the halt. -/
theorem faultingInstructionOnlyHalts : Obligations.FaultingInstructionOnlyHalts :=
  fun _ _ _ _ h => exec_of_faultOf_eq_some h

/-- Settles O10: where the table names no fault the instruction completes, which writes no record, and sets the mode for `FX0A`
alone. -/
theorem otherInstructionsComplete : Obligations.OtherInstructionsComplete := by
  intro i s h
  refine ⟨_, exec_of_faultOf_eq_none h, complete_fault i s, ?_⟩
  obtain hmode | ⟨x, hi, hrun | hwait⟩ := complete_mode_cases i s
  · exact .inl hmode
  · exact .inr ⟨x, hi, .inl hrun⟩
  · exact .inr ⟨x, hi, .inr (by rw [hwait])⟩

/-- Settles O11: a halt in the cycle is the halt of the state after the timer clock, and a completed instruction does not halt. -/
theorem faultingStepIsPrecise : Obligations.FaultingStepIsPrecise := by
  intro s t hm hstep hhalted
  obtain ⟨-, u, hcycle, rfl⟩ := step_eq_next hstep
  obtain ⟨kind, opcode, info, -, rfl⟩ | ⟨w, i, -, -, -, rfl⟩ := fetchDecodeExecute_eq_next hcycle
  · exact ⟨_, rfl, rfl⟩
  · exact absurd hhalted (complete_mode_ne_halted (s := s.timerTick ..) hm i)

/-- Settles O12: a fault leaves the PC; the PC of a completed instruction, constructor by constructor. -/
theorem nextPcByClass : Obligations.NextPcByClass := by
  intro i s t h
  obtain ⟨kind, info, hfault, rfl⟩ | ⟨hnone, rfl⟩ := exec_eq_next h
  · exact ⟨fun _ => rfl, fun hn => nomatch hfault.symm.trans hn⟩
  · refine ⟨fun hne => absurd hnone hne, fun _ => ?_⟩
    cases i with
    | jp nnn => exact zext16Addr_toNat nnn
    | call nnn => exact zext16Addr_toNat nnn
    | jpV0 nnn => exact zext16Addr_add_zext16Byte_toNat nnn _
    | ret => exact ⟨by omega, rfl⟩
    | ldVxK x =>
      obtain ⟨hlow, hwait⟩ | ⟨k, hlow, hstore⟩ := complete_ldVxK_cases x s
      · exact ⟨fun _ => by rw [hwait], fun hne => absurd hlow hne⟩
      · exact ⟨fun hn => (nomatch hlow.symm.trans hn), fun _ => by rw [hstore]; rfl⟩
    | seByte | seReg => exact skipIf_pc s beq_iff_eq
    | sneByte | sneReg => exact skipIf_pc s bne_iff_ne
    | skp | sknp => exact skipIf_pc s beq_iff_eq
    | cls | ldByte | addByte | ldReg | orReg | andReg | xorReg | addReg | subReg | shrReg | subnReg | shlReg | ldI | rnd
    | drw | ldVxDT | ldDTVx | ldSTVx | addI | ldF | ldB | stRegs | ldRegs => rfl

/-- Settles O13: a fault writes no register, and a completed instruction only those named for it. -/
theorem onlyNamedRegistersChange : Obligations.OnlyNamedRegistersChange := by
  intro i s t r h hr
  obtain ⟨kind, info, -, rfl⟩ | ⟨-, rfl⟩ := exec_eq_next h
  · rfl
  · exact complete_getV hr s

/-- Settles O16: a fault emits nothing, a completed `DXYN` emits the display after it, and no other instruction emits. -/
theorem renderEventPerCompletedDraw : Obligations.RenderEventPerCompletedDraw := by
  intro i s t h
  obtain ⟨kind, info, hfault, rfl⟩ | ⟨hnone, rfl⟩ := exec_eq_next h
  · exact ⟨fun ⟨_, hn⟩ => (nomatch hfault.symm.trans hn), fun _ => rfl⟩
  · refine ⟨fun ⟨⟨x, y, n, hi⟩, _⟩ => ?_, fun hnot => ?_⟩
    · rw [hi]
      exact complete_drw_renders x y n s
    · exact complete_renders (fun x y n hi => hnot ⟨⟨x, y, n, hi⟩, hnone⟩) s

/-- Settles O17: a fault leaves the stack, and of the completed instructions CALL pushes, RET pops, and no other moves it. -/
theorem stackMovesOnlyByCallAndRet : Obligations.StackMovesOnlyByCallAndRet := by
  intro i s t h
  obtain ⟨kind, info, -, rfl⟩ | ⟨hnone, rfl⟩ := exec_eq_next h
  · exact .inl ⟨rfl, rfl⟩
  · obtain hkeep | ⟨nnn, rfl⟩ | rfl := complete_stack_cases i s
    · exact .inl hkeep
    · have hroom := sp_lt_of_faultOf_call hnone
      refine .inr (.inl ⟨⟨nnn, rfl⟩, Nat.mod_eq_of_lt (by omega), fun k hk hne => ?_⟩)
      exact Vector.getElem_setIfInBounds_ne hk hne.symm
    · exact .inr (.inr ⟨rfl, Nat.sub_add_cancel (sp_pos_of_faultOf_ret hnone), rfl⟩)

/-- Settles O18: a fault leaves memory, and of the completed instructions `FX33` and `FX55` alone write, each one run of bytes
at I. -/
theorem memoryChangesOnlyByBcdAndStore : Obligations.MemoryChangesOnlyByBcdAndStore := by
  intro i s t a hwf h hne
  obtain ⟨kind, info, -, rfl⟩ | ⟨hnone, rfl⟩ := exec_eq_next h
  · exact absurd rfl hne
  · obtain hkeep | ⟨x, rfl⟩ | ⟨x, rfl⟩ := complete_mem_cases i s
    · exact absurd (congrArg (Memory.byte · a) hkeep) hne
    · have hrange := Memory.mem_range_of_byte_writeBytes_ne (bs := bcdDigits (s.getV x)) hwf
        (rangeFault_eq_none_iff.1 hnone) hne
      rw [length_bcdDigits] at hrange
      exact .inl ⟨⟨x, rfl⟩, hrange.1, by omega⟩
    · have hrange := Memory.mem_range_of_byte_writeBytes_ne hwf
        (s.length_regsUpTo x ▸ rangeFault_eq_none_iff.1 hnone) hne
      rw [State.length_regsUpTo] at hrange
      exact .inr ⟨x, rfl, hrange.1, by omega⟩

/-- Settles O19: the timer clock leaves a timer or drops it by 1, and in the cycle after it only `FX15` and `FX18` write one. -/
theorem timersDropByAtMostOne : Obligations.TimersDropByAtMostOne := by
  intro s t hstep
  obtain ⟨-, u, hcycle, rfl⟩ := step_eq_next hstep
  obtain ⟨hdt, hst⟩ := fetchDecodeExecute_timers hcycle
  constructor
  · obtain hdt | hwrites := hdt
    · rw [State.nextInputs_dt, hdt]
      exact (decayTimer_cases _ s.dt).imp_right .inl
    · exact .inr (.inr hwrites)
  · obtain hst | hwrites := hst
    · rw [State.nextInputs_st, hst]
      exact (decayTimer_cases _ s.st).imp_right .inl
    · exact .inr (.inr hwrites)

/-- Settles O20: the clock and the count are set from outside, with the draw, the mode and the record as they are. -/
theorem instructionsIgnoreTheClock : Obligations.InstructionsIgnoreTheClock := by
  intro i s t a b n h
  obtain ⟨u, hu, heq, hkeep⟩ := exec_withOutside s a b n s.rnd s.mode s.fault (.inr rfl) h
  obtain ⟨hmode, hfault⟩ := hkeep rfl rfl
  rw [hmode, hfault, ← (instrFrame_of_exec h).rnd_eq] at heq
  exact hu.trans (congrArg _ heq)

/-- Settles O21: the draw is set from outside, with all else as it is. -/
theorem onlyRndReadsTheDraw : Obligations.OnlyRndReadsTheDraw := by
  intro i s t r hi h
  obtain ⟨u, hu, heq, hkeep⟩ := exec_withOutside s s.lastTick s.now s.stepCount r s.mode s.fault (.inl hi) h
  obtain ⟨hmode, hfault⟩ := hkeep rfl rfl
  obtain ⟨htick, hnow, hcount⟩ := (instrFrame_of_exec h).clock_eq
  rw [hmode, hfault, ← htick, ← hnow, ← hcount] at heq
  exact hu.trans (congrArg _ heq)

/-- Settles O22: the mode and the record are set from outside, with all else as it is. -/
theorem instructionsIgnoreTheMode : Obligations.InstructionsIgnoreTheMode := by
  intro i s t m f h
  obtain ⟨u, hu, heq, -⟩ := exec_withOutside s s.lastTick s.now s.stepCount s.rnd m f (.inr rfl) h
  obtain ⟨htick, hnow, hcount⟩ := (instrFrame_of_exec h).clock_eq
  rw [← htick, ← hnow, ← hcount, ← (instrFrame_of_exec h).rnd_eq] at heq
  exact ⟨u, hu, heq⟩

end Sys2Proof.Machine
end

section
/-! PROOFS. The invariant (spec/10_state.md, spec/40_control_flow.md, spec/46_timers_keys.md): every step and every host operation
keeps it. -/

namespace Sys2Proof.Machine

/-! ## The parts of the invariant under a completed instruction -/

theorem complete_mem_wf {i : Instr} {s : State} (hnone : faultOf i s = none) (h : s.mem.wf = true) :
    (complete i s).mem.wf = true := by
  obtain hkeep | ⟨x, rfl⟩ | ⟨x, rfl⟩ := complete_mem_cases i s
  · rwa [hkeep]
  · exact Memory.wf_writeBytes (bs := bcdDigits (s.getV x)) h (rangeFault_eq_none_iff.1 hnone)
  · exact Memory.wf_writeBytes (bs := s.regsUpTo x) h (s.length_regsUpTo x ▸ rangeFault_eq_none_iff.1 hnone)

theorem pcBounded_advance {s : State} (h : s.pc.toNat ≤ 0xFFE) : s.advance.PcBounded := by
  show (s.pc + 2#16).toNat ≤ 0x10FE
  bv_omega

theorem pcBounded_skipIf {s : State} (h : s.pc.toNat ≤ 0xFFE) (c : Bool) : (s.skipIf c).PcBounded := by
  cases c with
  | false => exact pcBounded_advance h
  | true =>
    show (s.pc + 4#16).toNat ≤ 0x10FE
    bv_omega

/-- From a PC that was fetched at, every completed instruction goes to 0x10FE at most: `BNNN` goes farthest, to 0xFFF + 0xFF
(R105, R404). -/
theorem complete_pcBounded {i : Instr} {s : State} (hnone : faultOf i s = none) (hpc : s.pc.toNat ≤ 0xFFE)
    (hret : s.ReturnsBounded) : (complete i s).PcBounded := by
  cases i with
  | ret =>
    have hpos := sp_pos_of_faultOf_ret hnone
    have hentry := hret (s.sp.val - 1) (by omega) (by omega)
    show (s.stack[s.sp.val - 1]'(by omega) + 2#16).toNat ≤ 0x10FE
    bv_omega
  | jp nnn | call nnn =>
    have hn := nnn.isLt
    show (zext16Addr nnn).toNat ≤ 0x10FE
    rw [zext16Addr_toNat]
    omega
  | jpV0 nnn =>
    have hn := nnn.isLt
    have hv := (s.getV 0).isLt
    show (zext16Addr nnn + zext16Byte (s.getV 0)).toNat ≤ 0x10FE
    rw [zext16Addr_add_zext16Byte_toNat]
    omega
  | seByte | sneByte | seReg | sneReg | skp | sknp => exact pcBounded_skipIf hpc _
  | ldVxK x =>
    obtain ⟨-, h⟩ | ⟨k, -, h⟩ := complete_ldVxK_cases x s
    · rw [h]
      exact le_trans hpc (by decide)
    · rw [h]
      exact pcBounded_advance hpc
  | cls | ldByte | addByte | ldReg | orReg | andReg | xorReg | addReg | subReg | shrReg | subnReg | shlReg | ldI | rnd
  | drw | ldVxDT | ldDTVx | ldSTVx | addI | ldF | ldB | stRegs | ldRegs => exact pcBounded_advance (s := s) hpc

/-- A CALL pushes the PC it was fetched at; nothing else adds an entry (R401, R403). -/
theorem complete_returnsBounded {i : Instr} {s : State} (hnone : faultOf i s = none) (hpc : s.pc.toNat ≤ 0xFFE)
    (hret : s.ReturnsBounded) : (complete i s).ReturnsBounded := by
  intro k hk hlt
  obtain ⟨hsp, hstack⟩ | ⟨⟨nnn, rfl⟩, hsp, hstack⟩ | ⟨rfl, hsp, hstack⟩ :=
    stackMovesOnlyByCallAndRet i s _ (exec_of_faultOf_eq_none hnone)
  · rw [hsp] at hlt
    simpa only [hstack] using hret k hk hlt
  · by_cases htop : k = s.sp.val
    · subst htop
      have hentry : (complete (.call nnn) s).stack[s.sp.val] = s.pc := Vector.getElem_setIfInBounds_self _
      rwa [hentry]
    · rw [hstack k hk htop]
      exact hret k hk (by omega)
  · simp only [hstack]
    exact hret k hk (by omega)

/-- AwaitingKey stands after a completed instruction only where `FX0A` has waited, and that is the instruction at the PC still
(R526, R527). -/
theorem fetch_complete_of_awaitingKey {i : Instr} {s : State} {w : Word} (hf : s.fetch = .ok w)
    (hd : decodeWord w = some i) (hwait : s.WaitsAtKeyWait) (h : (complete i s).mode = .awaitingKey) :
    ∃ x, (complete i s).fetch = .ok w ∧ decodeWord w = some (.ldVxK x) := by
  have hi : ∃ x, i = .ldVxK x := by
    obtain hmode | ⟨x, hi, -⟩ := complete_mode_cases i s
    · obtain ⟨-, w', x, hf', hd'⟩ := hwait (hmode ▸ h)
      cases hf.symm.trans hf'
      cases hd.symm.trans hd'
      exact ⟨x, rfl⟩
    · exact ⟨x, hi⟩
  obtain ⟨x, rfl⟩ := hi
  obtain ⟨-, hstay⟩ | ⟨k, -, hgo⟩ := complete_ldVxK_cases x s
  · rw [hstay]
    exact ⟨x, hf, hd⟩
  · rw [hgo] at h
    cases h

/-! ## The invariant under the shared operations -/

theorem pc_le_of_fetch_eq_ok {s : State} {w : Word} (h : s.fetch = .ok w) : s.pc.toNat ≤ 0xFFE := by
  rw [State.fetch_eq] at h
  split at h
  · assumption
  · cases h

/-- Taking a machine fault records it at the PC (R602). -/
theorem State.Inv.halt {s : State} (h : s.Inv) {kind : Cause} (hkind : kind ≠ .romTooLarge) (opcode : Option Word)
    (info : Nat) : (s.halt kind opcode info).Inv := by
  obtain ⟨hmem, -, hpc, hret, -⟩ := h
  exact ⟨hmem, ⟨fun _ => ⟨_, rfl, rfl, hkind⟩, fun hne => absurd rfl hne⟩, hpc, hret, Mode.noConfusion⟩

theorem State.Inv.timerTick {s : State} (h : s.Inv) (period now : Nat) : (s.timerTick period now).Inv := h

theorem State.Inv.withInputs {s : State} (h : s.Inv) (now : Nat) (rnd : Byte) : (s.withInputs now rnd).Inv := h

theorem State.Inv.nextInputs {s : State} (h : s.Inv) : s.nextInputs.Inv := by
  obtain ⟨hmem, hfault, hpc, hret, hwait⟩ := h
  exact ⟨hmem, hfault, hpc, hret, fun hm => ⟨Nat.succ_ne_zero _, (hwait hm).2⟩⟩

/-- An instruction fetched, decoded and completed keeps the invariant, counted as a step. -/
theorem State.Inv.complete {s : State} (h : s.Inv) (hm : s.mode ≠ .halted) {w : Word} {i : Instr} (hf : s.fetch = .ok w)
    (hd : decodeWord w = some i) (hnone : faultOf i s = none) : (complete i s).nextInputs.Inv := by
  obtain ⟨hmem, hfault, -, hret, hwait⟩ := h
  have hpc := pc_le_of_fetch_eq_ok hf
  have hrun := complete_mode_ne_halted hm i
  refine ⟨complete_mem_wf hnone hmem, ⟨fun hh => absurd hh hrun, fun _ => (complete_fault i s).trans (hfault.2 hm)⟩,
    complete_pcBounded hnone hpc hret, complete_returnsBounded hnone hpc hret, fun ha => ⟨Nat.succ_ne_zero _, w, ?_⟩⟩
  exact fetch_complete_of_awaitingKey hf hd hwait ha

/-! ## The host's operations -/

/-- Before the first step no key is awaited, so `load` may write under the PC. -/
theorem State.Inv.load {s : State} (h : s.Inv) (hcount : s.stepCount = 0) {bytes : List Byte}
    (hlen : bytes.length ≤ Config.romMax) : State.Inv { s with mem := s.mem.writeBytes Config.programStart bytes } := by
  obtain ⟨hmem, hfault, hpc, hret, hwait⟩ := h
  have hfits : Config.programStart + bytes.length ≤ Config.memSize := by
    simp only [Config.romMax, Config.programStart, Config.memSize] at hlen ⊢
    omega
  exact ⟨Memory.wf_writeBytes hmem (.inr hfits), hfault, hpc, hret, fun hm => absurd hcount (hwait hm).1⟩

/-- `load` writes the ROM before the first step in a state that is not Halted, or leaves the state (R607, R711). -/
theorem load_apply_cases (bytes : List Byte) (s : State) :
    (s.stepCount = 0 ∧ bytes.length ≤ Config.romMax ∧
        (HostOp.load bytes).apply s = { s with mem := s.mem.writeBytes Config.programStart bytes }) ∨
      (HostOp.load bytes).apply s = s := by
  simp only [HostOp.apply, Sys2Proof.Machine.load]
  split_ifs with hboot hlen
  · exact .inr rfl
  · exact .inr rfl
  · exact .inl ⟨not_not.1 (not_or.1 hboot).2, Nat.not_lt.1 hlen, rfl⟩

theorem setKey_cases (k : Nat) (pressed : Bool) (s : State) :
    setKey k pressed s = s ∨ (∃ h : k < 16, setKey k pressed s = { s with keys := s.keys.set k pressed }) ∨
      setKey k pressed s = s.halt .invalidKeyIndex none k := by
  unfold setKey
  split_ifs with hm hk
  · exact .inl rfl
  · exact .inr (.inl ⟨hk, rfl⟩)
  · exact .inr (.inr rfl)

theorem construct_inv (t0 : Nat) (fontTable : FontTable) : (construct t0 fontTable).Inv := by
  refine ⟨construct_mem_wf t0 fontTable, ⟨Mode.noConfusion, fun _ => rfl⟩, ?_, fun k _ hlt => absurd hlt (Nat.not_lt_zero k),
    Mode.noConfusion⟩
  show (0x200#16).toNat ≤ 0x10FE
  decide

/-! ## The obligations -/

/-- Settles O53: the timer clock keeps the invariant, then the cycle takes a fault or completes an instruction, each of which keeps
it. -/
theorem stepKeepsInvariant : Obligations.StepKeepsInvariant := by
  intro s t hinv hstep
  obtain ⟨hm, u, hcycle, rfl⟩ := step_eq_next hstep
  have htick := hinv.timerTick Config.timerPeriod s.now
  obtain ⟨kind, opcode, info, hkind, rfl⟩ | ⟨w, i, hf, hd, hnone, rfl⟩ := fetchDecodeExecute_eq_next hcycle
  · exact (htick.halt hkind opcode info).nextInputs
  · exact htick.complete hm hf hd hnone

/-- Settles O54, by cases on the host operation: each leaves the state, or is an operation that keeps the invariant. -/
theorem hostOperationKeepsInvariant : Obligations.HostOperationKeepsInvariant := by
  intro op s hinv
  cases op with
  | load bytes =>
    obtain ⟨hcount, hlen, hwrite⟩ | hstay := load_apply_cases bytes s
    · rw [hwrite]
      exact hinv.load hcount hlen
    · rwa [hstay]
  | step now rnd =>
    obtain ⟨t, hstep, ht⟩ | hstay := stepWith_cases now rnd s
    · rw [HostOp.apply, ht]
      exact stepKeepsInvariant _ t (hinv.withInputs now rnd) hstep
    · rwa [HostOp.apply, hstay]
  | setKey k pressed =>
    obtain hstay | ⟨hk, hwrite⟩ | hhalt := setKey_cases k pressed s
    · rwa [HostOp.apply, hstay]
    · rw [HostOp.apply, hwrite]
      exact hinv
    · rw [HostOp.apply, hhalt]
      exact hinv.halt (by decide) none k
  | clearAllKeys =>
    by_cases hm : s.mode = .halted
    · rwa [HostOp.apply, clearAllKeys_of_halted hm]
    · rw [HostOp.apply, clearAllKeys_of_not_halted hm]
      exact hinv

/-- Settles O52: the reset state is the one that `construct` leaves with the default font. -/
theorem invariantAtReset : Obligations.InvariantAtReset := by
  rw [Obligations.InvariantAtReset, reset_eq_construct]
  exact construct_inv Config.constructTime defaultFont

/-- Settles O55, by induction on the host's operations from a state with the invariant. -/
theorem invariantOnEveryHostRun : Obligations.InvariantOnEveryHostRun := by
  intro t0 fontTable ops
  exact List.foldlRecOn ops _ (construct_inv t0 fontTable) fun s hinv op _ => hostOperationKeepsInvariant op s hinv

end Sys2Proof.Machine
end

section
/-! PROOFS. Register operations (spec/42_register_ops.md, spec/44_random.md): logic, the operations with a flag, the random byte. -/

namespace Sys2Proof.Machine

/-! ## The common write of a register and the flag -/

/-- Writing a register, then the flag, and moving on is all that an operation with a flag does (R447). -/
theorem writesRegAndFlag_setVWithFlag_advance (s : State) (x : Reg) (b f : Byte) :
    WritesRegAndFlag s (s.setVWithFlag x b f).advance x b f := by
  refine ⟨?_, fun hx => ?_, fun r hr hrF => ?_, rfl, rfl⟩
  · rw [State.getV_advance, State.getV_setVWithFlag, if_pos rfl]
  · rw [State.getV_advance, State.getV_setVWithFlag, if_neg hx, if_pos rfl]
  · rw [State.getV_advance, State.getV_setVWithFlag, if_neg hrF, if_neg hr]

/-! ## The bytes written, as arithmetic on numbers -/

theorem subBytes_eq_sub (a b : Byte) : subBytes a b = a - b := by
  apply BitVec.eq_of_toNat_eq
  have ha := a.isLt
  have hb := b.isLt
  rw [subBytes, BitVec.toNat_ofNat, BitVec.toNat_sub]
  congr 1
  omega

theorem shrByte_eq_ofNat (v : Byte) : shrByte v = BitVec.ofNat 8 (v.toNat / 2) := by
  apply BitVec.eq_of_toNat_eq
  have hv := v.isLt
  rw [shrByte, BitVec.toNat_ushiftRight, BitVec.toNat_ofNat, Nat.shiftRight_eq_div_pow]
  omega

theorem shlByte_eq_ofNat (v : Byte) : shlByte v = BitVec.ofNat 8 (2 * v.toNat % 256) := by
  apply BitVec.eq_of_toNat_eq
  rw [shlByte, BitVec.toNat_shiftLeft, BitVec.toNat_ofNat, Nat.shiftLeft_eq]
  omega

theorem shrFlag_eq_ofNat (v : Byte) : shrFlag v = BitVec.ofNat 8 (v.toNat % 2) := by
  apply BitVec.eq_of_toNat_eq
  rw [shrFlag, BitVec.toNat_and, show (0x01#8).toNat = 1 from rfl, Nat.and_one_is_mod, BitVec.toNat_ofNat]
  omega

/-- The raw mask of bit 7 is 0x80 exactly from 128 on (R452). -/
theorem shlFlag_eq_ite (v : Byte) : shlFlag v = if 128 ≤ v.toNat then 0x80#8 else 0x00#8 := by
  revert v
  decide

/-! ## The meanings, as `exec` gives them -/

section meanings

variable (x y : Reg) (s : State)

theorem exec_orReg : exec (.orReg x y) s = .next (s.setV x (s.getV x ||| s.getV y)).advance := rfl

theorem exec_andReg : exec (.andReg x y) s = .next (s.setV x (s.getV x &&& s.getV y)).advance := rfl

theorem exec_xorReg : exec (.xorReg x y) s = .next (s.setV x (s.getV x ^^^ s.getV y)).advance := rfl

theorem exec_addReg : exec (.addReg x y) s =
    .next (s.setVWithFlag x (addBytes (s.getV x) (s.getV y)) (carryFlag (s.getV x) (s.getV y))).advance := rfl

theorem exec_subReg : exec (.subReg x y) s =
    .next (s.setVWithFlag x (subBytes (s.getV x) (s.getV y)) (borrowFlag (s.getV x) (s.getV y))).advance := rfl

theorem exec_subnReg : exec (.subnReg x y) s =
    .next (s.setVWithFlag x (subBytes (s.getV y) (s.getV x)) (borrowFlag (s.getV y) (s.getV x))).advance := rfl

theorem exec_shrReg : exec (.shrReg x y) s =
    .next (s.setVWithFlag x (shrByte (s.getV y)) (shrFlag (s.getV y))).advance := rfl

theorem exec_shlReg : exec (.shlReg x y) s =
    .next (s.setVWithFlag x (shlByte (s.getV y)) (shlFlag (s.getV y))).advance := rfl

theorem exec_rnd (nn : Byte) : exec (.rnd x nn) s = .next (s.setV x (s.rnd &&& nn)).advance := rfl

end meanings

/-! ## The obligations -/

/-- Settles O24: each logic operation is the common register write. -/
theorem logicOperations : Obligations.LogicOperations := fun s x y =>
  ⟨⟨_, exec_orReg x y s, writesReg_setV_advance s x _⟩, ⟨_, exec_andReg x y s, writesReg_setV_advance s x _⟩,
    ⟨_, exec_xorReg x y s, writesReg_setV_advance s x _⟩⟩

/-- Settles O25: the common write of a register and the flag, with the exact sum modulo 256. -/
theorem addWithCarry : Obligations.AddWithCarry := by
  intro s x y
  rw [← addBytes_eq_ofNat_mod]
  exact ⟨_, exec_addReg x y s, writesRegAndFlag_setVWithFlag_advance s x _ _⟩

/-- Settles O26: the common write of a register and the flag, with the difference of the bytes. -/
theorem subtractWithBorrow : Obligations.SubtractWithBorrow := by
  intro s x y
  rw [← subBytes_eq_sub, ← subBytes_eq_sub]
  exact ⟨⟨_, exec_subReg x y s, writesRegAndFlag_setVWithFlag_advance s x _ _⟩,
    ⟨_, exec_subnReg x y s, writesRegAndFlag_setVWithFlag_advance s x _ _⟩⟩

/-- Settles O27: the common write of a register and the flag, with the shifted byte and the bit shifted out. -/
theorem shiftsOfTheOtherRegister : Obligations.ShiftsOfTheOtherRegister := by
  intro s x y
  rw [← shrByte_eq_ofNat, ← shrFlag_eq_ofNat, ← shlByte_eq_ofNat, ← shlFlag_eq_ite]
  exact ⟨⟨_, exec_shrReg x y s, writesRegAndFlag_setVWithFlag_advance s x _ _⟩,
    ⟨_, exec_shlReg x y s, writesRegAndFlag_setVWithFlag_advance s x _ _⟩⟩

/-- Settles O28: the random byte is the common register write of the draw under its mask. -/
theorem randomByteIsMaskedDraw : Obligations.RandomByteIsMaskedDraw := fun s x nn draw =>
  ⟨_, exec_rnd x { s with rnd := draw } nn, writesReg_setV_advance { s with rnd := draw } x _⟩

end Sys2Proof.Machine
end

section
/-! PROOFS. The step (spec/30_encoding.md, spec/60_exceptions.md): a decoded instruction, an unknown word, a fetch out of range, and
the Halted machine. -/

namespace Sys2Proof.Machine

/-! ## The fetch of a PC in range -/

theorem fetch_of_pc_le {s : State} (h : s.pc.toNat ≤ 0xFFE) :
    s.fetch = .ok (wordOfBytes (s.mem.byte s.pc.toNat) (s.mem.byte (s.pc.toNat + 1))) := by
  rw [s.fetch_eq, if_pos h]

/-- With a word fetched that decodes, the step is the timer clock, the instruction, and the next inputs (R300). -/
theorem step_of_decoded {s : State} {i : Instr} (hm : s.mode ≠ .halted) {w : Word} (hf : s.fetch = .ok w)
    (hd : decodeWord w = some i) :
    step s = takeNextInputs (exec i (s.timerTick Config.timerPeriod s.now)) := by
  rw [← State.fetch_timerTick s Config.timerPeriod s.now] at hf
  simp only [step_of_not_halted hm, fetchDecodeExecute, hf, hd]

theorem step_of_unknown {s : State} (hm : s.mode ≠ .halted) {w : Word} (hf : s.fetch = .ok w)
    (hd : decodeWord w = none) :
    step s = .next ((s.timerTick Config.timerPeriod s.now).halt .unknownOpcode (some w) w.toNat).nextInputs := by
  rw [← State.fetch_timerTick s Config.timerPeriod s.now] at hf
  simp only [step_of_not_halted hm, fetchDecodeExecute, hf, hd, takeNextInputs]

/-! ## The Halted machine -/

section halted

variable {s : State} (hm : s.mode = .halted)

include hm

theorem step_of_halted : step s = .fault (.halted s.fault) := by
  simp only [step, stepBody, hm]

theorem stepWith_of_halted (now : Nat) (rnd : Byte) : stepWith now rnd s = (.fault s.fault, s) := by
  have h : step (s.withInputs now rnd) = .fault (.halted s.fault) := step_of_halted hm
  simp only [stepWith, h]

theorem load_of_halted (bytes : List Byte) : load bytes s = .refused .loadOutsideBoot := if_pos (.inl hm)

theorem setKey_of_halted (k : Nat) (pressed : Bool) : setKey k pressed s = s := if_pos hm

end halted

/-! ## The obligations -/

/-- Settles O5: the fetch in range gives the word, and the instruction answers a next state. -/
theorem stepRunsDecodedInstruction : Obligations.StepRunsDecodedInstruction := by
  intro s i hm hpc hd
  obtain ⟨t, hexec, -⟩ := exec_instrFrame i (s.timerTick Config.timerPeriod s.now)
  exact ⟨t, hexec, by rw [step_of_decoded hm (fetch_of_pc_le hpc) hd, hexec, takeNextInputs]⟩

/-- Settles O6: the lowest bad address of the two is the PC, or the one after it where the PC is 0xFFF. -/
theorem fetchOutOfRangeHalts : Obligations.FetchOutOfRangeHalts := by
  intro s hm hpc
  have hbad : (if 0xFFF < s.pc.toNat then s.pc.toNat else s.pc.toNat + 1) = max s.pc.toNat 0x1000 := by
    split_ifs <;> omega
  rw [hbad]
  exact step_of_pc_out_of_range hm hpc

/-- Settles O7: the fetch in range gives the word, which no row decodes. -/
theorem unknownWordHalts : Obligations.UnknownWordHalts := by
  intro s w hm hpc hw hd
  exact step_of_unknown hm (hw ▸ fetch_of_pc_le hpc) hd

/-- Settles O8: each host operation tests for the mode Halted first. -/
theorem haltedMachineStaysHalted : Obligations.HaltedMachineStaysHalted := by
  intro s hm
  refine ⟨step_of_halted hm, stepWith_of_halted hm, load_of_halted hm, fun op => ?_⟩
  cases op with
  | load bytes => rw [HostOp.apply, load_of_halted hm]
  | step now rnd => rw [HostOp.apply, stepWith_of_halted hm]
  | setKey k pressed => exact setKey_of_halted hm k pressed
  | clearAllKeys => exact clearAllKeys_of_halted hm

end Sys2Proof.Machine
end

section
/-! PROOFS. Control flow, key skips and the index register (spec/40_control_flow.md, spec/41_skips.md, spec/43_memory_index.md). -/

namespace Sys2Proof.Machine

theorem blankDisplay_pixel (row : Fin 32) (col : Fin 64) : blankDisplay.pixel row col = false := by
  simp only [Display.pixel, blankDisplay, Vector.getElem_replicate]

theorem exec_cls (s : State) : exec .cls s = .next (State.advance { s with display := blankDisplay }) := rfl

theorem glyphAddress_toNat {d : Nat} (h : d ≤ 15) : (glyphAddress d).toNat = 5 * d := by
  rw [glyphAddress, BitVec.toNat_ofNat, Config.fontBase, Config.glyphSize]
  omega

/-! ## The obligations -/

/-- Settles O34: the CALL has put its own address on top of the stack, and RET pops it. -/
theorem callThenReturnResumes : Obligations.CallThenReturnResumes := by
  intro s t u nnn hroom hcall hstack hsp
  rw [exec_call, execCall_of_room nnn s hroom] at hcall
  cases hcall
  have hdepth : u.sp.val = s.sp.val + 1 := congrArg Fin.val hsp
  have htop : u.stack[u.sp.val - 1]'(by omega) = s.pc := by
    simp only [hstack, hdepth, Nat.add_sub_cancel]
    exact Vector.getElem_set_self hroom
  refine ⟨_, execRet_of_pos u (by omega), congrArg (· + 2#16) htop, Fin.ext ?_⟩
  show u.sp.val - 1 = s.sp.val
  omega

/-- Settles O35: the display written is blank. -/
theorem clsBlanksTheDisplay : Obligations.ClsBlanksTheDisplay :=
  fun s => ⟨_, exec_cls s, blankDisplay_pixel, rfl, rfl⟩

/-- Settles O30: with a key's number, each is the common skip rule on the key's state; with a larger one, the table's fault. -/
theorem keySkips : Obligations.KeySkips := by
  intro s x
  refine ⟨fun hkey => ⟨⟨_, execSkp_of_key x s hkey, movesPc_skipIf s Iff.rfl⟩, _, execSknp_of_key x s hkey, ?_⟩, ?_⟩
  · rw [← ite_not]
    exact movesPc_skipIf s (by simp)
  · intro hno i hi
    simp only [List.mem_cons, List.not_mem_nil, or_false] at hi
    rcases hi with rfl | rfl
    · exact execSkp_of_no_key x s hno
    · exact execSknp_of_no_key x s hno

/-- Settles O37: a sum that fits in 16 bits is exact; a larger one is the table's fault. -/
theorem addToIndex : Obligations.AddToIndex := by
  intro s x
  refine ⟨fun hfit => ⟨_, execAddI_of_fit x s hfit, ?_, rfl, rfl⟩, execAddI_of_excess x s⟩
  show (s.idx + zext16Byte (s.getV x)).toNat = _
  rw [BitVec.toNat_add_of_lt (by rw [zext16Byte_toNat]; omega), zext16Byte_toNat]

/-- Settles O38: a digit's glyph lies below 5 * 16, so the address does not wrap; a larger value is the table's fault. -/
theorem indexOfGlyph : Obligations.IndexOfGlyph := by
  intro s x
  exact ⟨fun hdigit => ⟨_, execLdF_of_digit x s hdigit, glyphAddress_toNat hdigit, rfl, rfl⟩, execLdF_of_no_digit x s⟩

end Sys2Proof.Machine
end

section
/-! PROOFS. Memory and index (spec/43_memory_index.md): the decimal digits, the store and the load of registers, the canonical form. -/

namespace Sys2Proof.Machine

/-! ## Reading inside and outside a run of writes -/

section writeBytes

variable {m : Memory} (hwf : m.wf = true) {a : Nat} {bs : List Byte} (hr : bs.length = 0 ∨ a + bs.length ≤ 0x1000)

include hwf hr

theorem Memory.byte_writeBytes_inside {k : Nat} (hk : k < bs.length) : (m.writeBytes a bs).byte (a + k) = bs[k] := by
  rw [byte_writeBytes hwf hr, if_pos (Nat.le_add_right a k), Nat.add_sub_cancel_left, List.getElem?_eq_getElem hk,
    Option.getD_some]

theorem Memory.byte_writeBytes_outside {a' : Nat} (h : a' < a ∨ a + bs.length ≤ a') :
    (m.writeBytes a bs).byte a' = m.byte a' := by
  by_contra hne
  have hrange := mem_range_of_byte_writeBytes_ne hwf hr hne
  omega

end writeBytes

/-! ## The decimal digits -/

theorem digit_toNat {n : Nat} (h : n < 256) : (BitVec.ofNat 8 n).toNat = n := by
  rw [BitVec.toNat_ofNat, Nat.mod_eq_of_lt h]

/-! ## Runs of registers -/

/-- I past the last byte of a range inside memory does not wrap (R485). -/
theorem idx_add_toNat {a : Word} {x : Reg} (h : a.toNat + x.val ≤ 0xFFF) :
    (a + BitVec.ofNat 16 (x.val + 1)).toNat = a.toNat + x.val + 1 := by
  have hx : (BitVec.ofNat 16 (x.val + 1)).toNat = x.val + 1 := by
    rw [BitVec.toNat_ofNat]
    omega
  rw [BitVec.toNat_add_of_lt (by omega), hx]
  omega

theorem State.regsUpTo_getElem (s : State) (x : Reg) (k : Reg) (hk : k.val ≤ x.val) :
    (s.regsUpTo x)[k.val]'(by rw [s.length_regsUpTo]; omega) = s.getV k := by
  rw [← Option.some_inj, ← List.getElem?_eq_getElem, s.regsUpTo_getElem?, dif_pos hk]

/-- A load of V0 to Vx from a range inside memory (R486). -/
theorem getV_loaded (s : State) (x k : Reg) :
    (s.setVsFrom 0 ((List.range (x.val + 1)).map fun j => s.mem.byte (s.idx.toNat + j))).getV k =
      if k.val ≤ x.val then s.mem.byte (s.idx.toNat + k.val) else s.getV k := by
  rw [State.getV_setVsFrom, if_pos (Nat.zero_le _), Nat.sub_zero, List.getElem?_map]
  split_ifs with hk
  · rw [List.getElem?_range (by omega)]
    rfl
  · rw [List.getElem?_eq_none (by rw [List.length_range]; omega)]
    rfl

/-! ## The canonical form -/

/-- The first entry of a memory in the canonical form is read back, and is another byte than the unlisted one. -/
theorem Memory.of_wfFrom_cons {lo a : Nat} {b : Byte} {rest : Memory} (h : wfFrom lo ((a, b) :: rest) = true) :
    lo ≤ a ∧ byte ((a, b) :: rest) a = b ∧ b ≠ initial a ∧ wfFrom (a + 1) rest = true := by
  simp only [wfFrom, Bool.and_eq_true, decide_eq_true_eq] at h
  obtain ⟨⟨⟨hlo, -⟩, hne⟩, hrest⟩ := h
  exact ⟨hlo, if_pos rfl, hne, hrest⟩

/-- Canonical memories that read the same have the same first address: the lower of two would read as unlisted in the other. -/
theorem Memory.head_le_of_byte_eq {lo a a' : Nat} {b b' : Byte} {r r' : Memory} (h : wfFrom lo ((a, b) :: r) = true)
    (h' : wfFrom lo ((a', b') :: r') = true) (heq : ∀ k, byte ((a, b) :: r) k = byte ((a', b') :: r') k) : a' ≤ a := by
  by_contra hlt
  obtain ⟨-, hread, hne, -⟩ := of_wfFrom_cons h
  obtain ⟨-, hread', hne', hrest'⟩ := of_wfFrom_cons h'
  apply hne
  rw [← hread, heq a, byte, if_neg (by omega)]
  exact byte_of_lt hrest' (by omega)

theorem Memory.eq_of_byte_eq {lo : Nat} {m m' : Memory} (h : wfFrom lo m = true) (h' : wfFrom lo m' = true)
    (heq : ∀ k, byte m k = byte m' k) : m = m' := by
  induction m generalizing lo m' with
  | nil =>
    cases m' with
    | nil => rfl
    | cons p r' =>
      obtain ⟨-, hread, hne, -⟩ := of_wfFrom_cons h'
      exact absurd (hread.symm.trans (heq p.1).symm) hne
  | cons p r ih =>
    obtain ⟨a, b⟩ := p
    cases m' with
    | nil =>
      obtain ⟨-, hread, hne, -⟩ := of_wfFrom_cons h
      exact absurd (hread.symm.trans (heq a)) hne
    | cons p' r' =>
      obtain ⟨a', b'⟩ := p'
      obtain rfl : a = a' := Nat.le_antisymm (head_le_of_byte_eq h' h fun k => (heq k).symm) (head_le_of_byte_eq h h' heq)
      obtain ⟨-, hread, -, hrest⟩ := of_wfFrom_cons h
      obtain ⟨-, hread', -, hrest'⟩ := of_wfFrom_cons h'
      obtain rfl : b = b' := by rw [← hread, heq a, hread']
      have htail : ∀ k, byte r k = byte r' k := by
        intro k
        by_cases hk : k = a
        · rw [byte_of_lt hrest (by omega), byte_of_lt hrest' (by omega)]
        · simpa only [byte, if_neg hk] using heq k
      rw [ih hrest hrest' htail]

/-! ## The obligations -/

/-- Settles O39: three digits are written at I, and a range that passes 0xFFF is the table's fault. -/
theorem bcdStoresThreeDigits : Obligations.BcdStoresThreeDigits := by
  intro s x hwf
  constructor
  · intro hin
    have hr : (bcdDigits (s.getV x)).length = 0 ∨ s.idx.toNat + (bcdDigits (s.getV x)).length ≤ 0x1000 :=
      .inr (by rw [length_bcdDigits]; omega)
    have hread := fun k hk => congrArg BitVec.toNat (Memory.byte_writeBytes_inside hwf hr (k := k) hk)
    have hv := (s.getV x).isLt
    refine ⟨_, (execLdB_eq x s).trans (if_pos (by omega)), ?_, ?_, ?_, fun a ha => ?_, rfl, rfl⟩
    · exact (hread 0 (by rw [length_bcdDigits]; decide)).trans (digit_toNat (by omega))
    · exact (hread 1 (by rw [length_bcdDigits]; decide)).trans (digit_toNat (by omega))
    · exact (hread 2 (by rw [length_bcdDigits]; decide)).trans (digit_toNat (by omega))
    · exact Memory.byte_writeBytes_outside hwf hr (by rw [length_bcdDigits]; omega)
  · intro hout
    exact (execLdB_eq x s).trans (if_neg (by omega))

/-- Settles O40: the registers are written in order at I, and a range that passes 0xFFF is the table's fault. -/
theorem storeRegisters : Obligations.StoreRegisters := by
  intro s x hwf
  constructor
  · intro hin
    have hr : (s.regsUpTo x).length = 0 ∨ s.idx.toNat + (s.regsUpTo x).length ≤ 0x1000 :=
      .inr (by rw [s.length_regsUpTo]; omega)
    refine ⟨_, (execStRegs_eq x s).trans (if_pos (by omega)), fun k hk => ?_, fun a ha => ?_, idx_add_toNat hin, rfl, rfl⟩
    · exact (Memory.byte_writeBytes_inside hwf hr (by rw [s.length_regsUpTo]; omega)).trans (s.regsUpTo_getElem x k hk)
    · exact Memory.byte_writeBytes_outside hwf hr (by rw [s.length_regsUpTo]; omega)
  · intro hout
    exact (execStRegs_eq x s).trans (if_neg (by omega))

/-- Settles O41: the registers take the bytes in order from I, and a range that passes 0xFFF is the table's fault. -/
theorem loadRegisters : Obligations.LoadRegisters := by
  intro s x
  constructor
  · intro hin
    refine ⟨_, (execLdRegs_eq x s).trans (if_pos (by omega)), fun k hk => ?_, fun k hk => ?_, idx_add_toNat hin, ?_, ?_⟩
    · exact (getV_loaded s x k).trans (if_pos hk)
    · exact (getV_loaded s x k).trans (if_neg (Nat.not_le.2 hk))
    · rw [State.setVsFrom_eq]
      rfl
    · rw [State.setVsFrom_eq]
      rfl
  · intro hout
    exact (execLdRegs_eq x s).trans (if_neg (by omega))

/-- Settles O42: the load reads back the byte that the store wrote for the register. -/
theorem storeThenLoadRestores : Obligations.StoreThenLoadRestores := by
  intro s t u x k hwf hin hexec hmem hidx hk
  obtain ⟨t', hexec', hstored, -⟩ := (storeRegisters s x hwf).1 hin
  cases hexec'.symm.trans hexec
  obtain ⟨r, hload, hloaded, -⟩ := (loadRegisters u x).1 (hidx ▸ hin)
  exact ⟨r, hload, by rw [hloaded k hk, hmem, hidx, hstored k hk]⟩

/-- Settles O43, by induction on the first list: the first addresses agree, then their bytes, then the rests. -/
theorem canonicalMemoryIsExtensional : Obligations.CanonicalMemoryIsExtensional :=
  fun _ _ h h' heq => Memory.eq_of_byte_eq h h' heq

end Sys2Proof.Machine
end

section
/-! PROOFS. Sprites (spec/45_sprite_draw.md): the loop of a draw as one list of plots, each at a pixel of its own. -/

namespace Sys2Proof.Machine

/-! ## A list of plots -/

/-- One pass of the draw loop's body: a bit of the sprite and the pixel under it. -/
abbrev Plot := Bool × Fin 32 × Fin 64

/-- The plots one after the other, as the loop makes them (R500). -/
def plotAll (plots : List Plot) (p : Drawing) : Drawing := plots.foldl (fun q e => plotBit e.1 e.2.1 e.2.2 q) p

@[simp] theorem plotAll_nil (p : Drawing) : plotAll [] p = p := rfl

@[simp] theorem plotAll_cons (e : Plot) (plots : List Plot) (p : Drawing) :
    plotAll (e :: plots) p = plotAll plots (plotBit e.1 e.2.1 e.2.2 p) := rfl

theorem plotAll_append (plots plots' : List Plot) (p : Drawing) :
    plotAll (plots ++ plots') p = plotAll plots' (plotAll plots p) := List.foldl_append

/-- The plots are at pixels that differ. -/
def PixelsDiffer (plots : List Plot) : Prop := plots.Pairwise fun e e' => e.2 ≠ e'.2

/-- Each pixel is flipped exactly if a 1 bit is plotted there. -/
theorem pixel_plotAll {plots : List Plot} (h : PixelsDiffer plots) (p : Drawing) (row : Fin 32) (col : Fin 64) :
    (plotAll plots p).1.pixel row col = (p.1.pixel row col ^^ decide ((true, row, col) ∈ plots)) := by
  induction plots generalizing p with
  | nil => simp
  | cons e plots ih =>
    obtain ⟨bit, r, c⟩ := e
    obtain ⟨hdiffer, hrest⟩ := List.pairwise_cons.1 h
    rw [plotAll_cons, ih hrest, pixel_plotBit]
    by_cases hhere : row = r ∧ col = c
    · obtain ⟨rfl, rfl⟩ := hhere
      have hnot : (true, row, col) ∉ plots := fun hmem => hdiffer _ hmem rfl
      cases bit with
      | true => simp [hnot]
      | false => simp [hnot]
    · have helse : (true, row, col) ≠ (bit, r, c) := fun heq => by cases heq; exact hhere ⟨rfl, rfl⟩
      rw [if_neg hhere]
      simp only [List.mem_cons, helse, false_or]

/-- A hit is a 1 bit plotted at a pixel that was set. -/
theorem hit_plotAll {plots : List Plot} (h : PixelsDiffer plots) (p : Drawing) :
    (plotAll plots p).2 = true ↔ p.2 = true ∨ ∃ row col, (true, row, col) ∈ plots ∧ p.1.pixel row col = true := by
  induction plots generalizing p with
  | nil => simp
  | cons e plots ih =>
    obtain ⟨bit, r, c⟩ := e
    obtain ⟨hdiffer, hrest⟩ := List.pairwise_cons.1 h
    have hkeep : ∀ row col, (true, row, col) ∈ plots → (plotBit bit r c p).1.pixel row col = p.1.pixel row col := by
      intro row col hmem
      rw [pixel_plotBit, if_neg]
      rintro ⟨rfl, rfl⟩
      exact hdiffer _ hmem rfl
    have hhit : (plotBit bit r c p).2 = true ↔ p.2 = true ∨ bit = true ∧ p.1.pixel r c = true := by
      simp only [plotBit, Bool.or_eq_true, Bool.and_eq_true]
    rw [plotAll_cons, ih hrest, hhit]
    constructor
    · rintro ((hp | ⟨rfl, hset⟩) | ⟨row, col, hmem, hset⟩)
      · exact .inl hp
      · exact .inr ⟨r, c, List.mem_cons_self, hset⟩
      · exact .inr ⟨row, col, List.mem_cons_of_mem _ hmem, hkeep row col hmem ▸ hset⟩
    · rintro (hp | ⟨row, col, hmem, hset⟩)
      · exact .inl (.inl hp)
      · rcases List.mem_cons.1 hmem with heq | hmem
        · cases heq
          exact .inl (.inr ⟨rfl, hset⟩)
        · exact .inr ⟨row, col, hmem, (hkeep row col hmem).trans hset⟩

/-! ## The plots of a sprite -/

/-- The 8 plots of a sprite byte, column by column. -/
def rowPlots (b : Byte) (row : Fin 32) (x0 : Nat) : List Plot :=
  (List.range 8).map fun c => (spriteBit b c, row, Fin.ofNat 64 (x0 + c))

/-- The plots of the sprite's bytes, row by row from `y` on. -/
def spritePlots (x0 : Nat) : Nat → List Byte → List Plot
  | _, [] => []
  | y, b :: bs => rowPlots b (Fin.ofNat 32 y) x0 ++ spritePlots x0 (y + 1) bs

theorem drawRow_eq_plotAll (b : Byte) (row : Fin 32) (x0 : Nat) (p : Drawing) :
    drawRow b row x0 p = plotAll (rowPlots b row x0) p := by
  rw [plotAll, rowPlots, List.foldl_map]
  rfl

theorem drawRows_eq_plotAll (x0 y : Nat) (bs : List Byte) (p : Drawing) :
    drawRows x0 y bs p = plotAll (spritePlots x0 y bs) p := by
  induction bs generalizing y p with
  | nil => rfl
  | cons b bs ih => rw [drawRows, ih, drawRow_eq_plotAll, spritePlots, plotAll_append]

theorem mem_rowPlots {b : Byte} {row : Fin 32} {x0 : Nat} {e : Plot} :
    e ∈ rowPlots b row x0 ↔ ∃ c < 8, e = (spriteBit b c, row, Fin.ofNat 64 (x0 + c)) := by
  simp only [rowPlots, List.mem_map, List.mem_range, eq_comm (a := e)]

theorem mem_spritePlots {x0 y : Nat} {bs : List Byte} {e : Plot} :
    e ∈ spritePlots x0 y bs ↔
      ∃ r b, bs[r]? = some b ∧ ∃ c < 8, e = (spriteBit b c, Fin.ofNat 32 (y + r), Fin.ofNat 64 (x0 + c)) := by
  induction bs generalizing y with
  | nil => simp [spritePlots]
  | cons b bs ih =>
    rw [spritePlots, List.mem_append, mem_rowPlots, ih]
    constructor
    · rintro (hrow | ⟨r, b', hb', hplot⟩)
      · exact ⟨0, b, rfl, hrow⟩
      · exact ⟨r + 1, b', hb', by rwa [show y + (r + 1) = y + 1 + r by omega]⟩
    · rintro ⟨r, b', hb', hplot⟩
      cases r with
      | zero =>
        cases hb'
        exact .inl hplot
      | succ r => exact .inr ⟨r, b', hb', by rwa [show y + 1 + r = y + (r + 1) by omega]⟩

theorem ofNat_64_ne {a b : Nat} (hlt : a < b) (hnear : b < a + 64) : Fin.ofNat 64 a ≠ Fin.ofNat 64 b := by
  intro heq
  have hval : a % 64 = b % 64 := congrArg Fin.val heq
  omega

theorem ofNat_32_ne {a b : Nat} (hlt : a < b) (hnear : b < a + 32) : Fin.ofNat 32 a ≠ Fin.ofNat 32 b := by
  intro heq
  have hval : a % 32 = b % 32 := congrArg Fin.val heq
  omega

/-- The 8 columns of a row differ, modulo 64 too. -/
theorem pixelsDiffer_rowPlots (b : Byte) (row : Fin 32) (x0 : Nat) : PixelsDiffer (rowPlots b row x0) := by
  have hcols : (List.range 8).Pairwise fun c c' => c < c' ∧ c' < 8 := by decide
  refine List.pairwise_map.2 (hcols.imp fun {c c'} ⟨hlt, hbound⟩ heq => ?_)
  exact ofNat_64_ne (a := x0 + c) (b := x0 + c') (by omega) (by omega) (congrArg Prod.snd heq)

/-- Up to 32 rows differ, modulo 32 too. -/
theorem pixelsDiffer_spritePlots (x0 y : Nat) {bs : List Byte} (h : bs.length ≤ 32) :
    PixelsDiffer (spritePlots x0 y bs) := by
  induction bs generalizing y with
  | nil => exact List.Pairwise.nil
  | cons b bs ih =>
    rw [List.length_cons] at h
    refine List.pairwise_append.2 ⟨pixelsDiffer_rowPlots .., ih (y + 1) (by omega), fun e he e' he' heq => ?_⟩
    obtain ⟨c, -, rfl⟩ := mem_rowPlots.1 he
    obtain ⟨r, b', hb', c', -, rfl⟩ := mem_spritePlots.1 he'
    have hr : r < bs.length := (List.getElem?_eq_some_iff.1 hb').1
    exact ofNat_32_ne (a := y) (b := y + 1 + r) (by omega) (by omega) (congrArg Prod.fst heq)

/-! ## The drawing of an instruction -/

/-- The pixels under the sprite's 1 bits are those of its plots of a 1 bit. -/
theorem mem_spritePlots_iff_spriteCovers (m : Memory) (a n x0 y0 : Nat) (row : Fin 32) (col : Fin 64) :
    (true, row, col) ∈ spritePlots x0 y0 ((List.range n).map fun k => m.byte (a + k)) ↔
      SpriteCovers m a n x0 y0 row col := by
  rw [mem_spritePlots]
  constructor
  · rintro ⟨r, b, hb, c, hc, heq⟩
    obtain ⟨hr, rfl⟩ := List.getElem?_eq_some_iff.1 hb
    simp only [List.length_map, List.length_range] at hr
    simp only [List.getElem_map, List.getElem_range, Prod.mk.injEq] at heq
    obtain ⟨hbit, rfl, rfl⟩ := heq
    exact ⟨r, c, hr, hc, rfl, rfl, hbit.symm⟩
  · rintro ⟨r, c, hr, hc, hrow, hcol, hbit⟩
    refine ⟨r, m.byte (a + r), by simp [hr], c, hc, ?_⟩
    have hrow' : row = Fin.ofNat 32 (y0 + r) := Fin.ext hrow
    have hcol' : col = Fin.ofNat 64 (x0 + c) := Fin.ext hcol
    rw [spriteBit, hbit, hrow', hcol']

section drawing

variable (x y : Reg) (n : Fin 16) (s : State)

/-- The plots of `DXYN` in a state. -/
def plotsOf : List Plot :=
  spritePlots (s.getV x).toNat (s.getV y).toNat ((List.range n.val).map fun k => s.mem.byte (s.idx.toNat + k))

theorem mem_plotsOf_iff (row : Fin 32) (col : Fin 64) :
    (true, row, col) ∈ plotsOf x y n s ↔
      SpriteCovers s.mem s.idx.toNat n.val (s.getV x).toNat (s.getV y).toNat row col :=
  mem_spritePlots_iff_spriteCovers ..

theorem pixelsDiffer_plotsOf : PixelsDiffer (plotsOf x y n s) :=
  pixelsDiffer_spritePlots _ _ (by rw [List.length_map, List.length_range]; omega)

theorem drawingOf_eq_plotAll : drawingOf x y n s = plotAll (plotsOf x y n s) (s.display, false) :=
  drawRows_eq_plotAll ..

theorem drawingOf_pixel (row : Fin 32) (col : Fin 64) :
    (drawingOf x y n s).1.pixel row col = (s.display.pixel row col ^^ decide ((true, row, col) ∈ plotsOf x y n s)) := by
  rw [drawingOf_eq_plotAll, pixel_plotAll (pixelsDiffer_plotsOf x y n s)]

theorem drawingOf_hit_iff :
    (drawingOf x y n s).2 = true ↔ ∃ row col, (true, row, col) ∈ plotsOf x y n s ∧ s.display.pixel row col = true := by
  rw [drawingOf_eq_plotAll, hit_plotAll (pixelsDiffer_plotsOf x y n s)]
  simp only [Bool.false_eq_true, false_or]

theorem exec_drw_of_range (h : n.val = 0 ∨ s.idx.toNat + n.val ≤ 0x1000) :
    exec (.drw x y n) s = .next (complete (.drw x y n) s) :=
  exec_of_faultOf_eq_none (rangeFault_of_le h)

theorem complete_drw_display : (complete (.drw x y n) s).display = (drawingOf x y n s).1 := rfl

theorem complete_drw_getV_regF : (complete (.drw x y n) s).getV regF = collisionFlag (drawingOf x y n s).2 :=
  (State.getV_setV ..).trans (if_pos rfl)

theorem complete_drw_getV_of_ne {r : Reg} (hr : r ≠ regF) : (complete (.drw x y n) s).getV r = s.getV r :=
  complete_getV (i := .drw x y n) (beq_eq_false_iff_ne.2 hr) s

end drawing

theorem collisionFlag_eq_one_iff {hit : Bool} : collisionFlag hit = 1#8 ↔ hit = true := by
  cases hit with
  | true => exact ⟨fun _ => rfl, fun _ => rfl⟩
  | false => decide

/-! ## The obligations -/

/-- Settles O44: the drawing is one plot for each bit of the sprite, at pixels that differ; a range that passes 0xFFF is the table's
fault. -/
theorem drawFlipsTheCoveredPixels : Obligations.DrawFlipsTheCoveredPixels := by
  intro s x y n
  refine ⟨fun hrange => ?_, fun hout => (execDrw_eq x y n s).trans (if_neg hout)⟩
  simp only [← mem_plotsOf_iff, ← drawingOf_hit_iff]
  refine ⟨_, exec_drw_of_range x y n s hrange, fun row col => ⟨fun hcovered => ?_, fun hfree => ?_⟩, fun hhit => ?_,
    fun hmiss => ?_, fun r hr => complete_drw_getV_of_ne x y n s hr, rfl, rfl, rfl⟩
  · rw [complete_drw_display, drawingOf_pixel, decide_eq_true hcovered, Bool.xor_true]
  · rw [complete_drw_display, drawingOf_pixel, decide_eq_false hfree, Bool.xor_false]
  · rw [complete_drw_getV_regF, hhit, collisionFlag, if_pos rfl]
  · rw [complete_drw_getV_regF, collisionFlag, if_neg hmiss]

/-- Settles O45: the first draw leaves what the second one reads, so both have the same plots, and flipping twice restores. -/
theorem drawTwiceRestores : Obligations.DrawTwiceRestores := by
  intro s t u x y n hx hy hrange hst htu
  cases (exec_drw_of_range x y n s hrange).symm.trans hst
  cases (exec_drw_of_range x y n (complete (.drw x y n) s) hrange).symm.trans htu
  have hplots : plotsOf x y n (complete (.drw x y n) s) = plotsOf x y n s := by
    rw [plotsOf, complete_drw_getV_of_ne x y n s hx, complete_drw_getV_of_ne x y n s hy]
    rfl
  have hfirst := drawingOf_pixel x y n s
  constructor
  · refine Display.ext_pixel fun row col => ?_
    rw [complete_drw_display, drawingOf_pixel, hplots, complete_drw_display, hfirst, Bool.xor_assoc, Bool.xor_self,
      Bool.xor_false]
  · rw [complete_drw_getV_regF, collisionFlag_eq_one_iff, drawingOf_hit_iff, hplots, complete_drw_display]
    refine exists_congr fun row => exists_congr fun col => ?_
    rw [hfirst]
    by_cases hcovered : (true, row, col) ∈ plotsOf x y n s
    · simp [hcovered]
    · simp [hcovered]

end Sys2Proof.Machine
end

section
/-! PROOFS. Timers and keys (spec/46_timers_keys.md, spec/60_exceptions.md): the timer clock, FX07 after it, and the key wait. -/

namespace Sys2Proof.Machine

/-! ## The timer clock, by whether a decrement is due -/

theorem decayTimer_false (t : Byte) : decayTimer false t = t :=
  BitVec.eq_of_toNat_eq ((decayTimer_toNat false t).trans (if_neg Bool.false_ne_true))

theorem decayTimer_true_toNat (t : Byte) : (decayTimer true t).toNat = t.toNat - 1 :=
  (decayTimer_toNat true t).trans (if_pos rfl)

section timerTick

variable {s : State} {period now : Nat}

theorem timerTick_of_due (h : period ≤ now - s.lastTick) :
    s.timerTick period now = { s with dt := decayTimer true s.dt, st := decayTimer true s.st, lastTick := now } := by
  simp only [State.timerTick, tickDue_eq, decide_eq_true h, if_true]

theorem timerTick_of_not_due (h : now - s.lastTick < period) : s.timerTick period now = s := by
  simp only [State.timerTick, tickDue_eq, decide_eq_false (Nat.not_le.2 h), decayTimer_false, Bool.false_eq_true, if_false]

theorem timerTick_dt_toNat :
    (s.timerTick period now).dt.toNat = if period ≤ now - s.lastTick then s.dt.toNat - 1 else s.dt.toNat := by
  split_ifs with h
  · rw [timerTick_of_due h, decayTimer_true_toNat]
  · rw [timerTick_of_not_due (Nat.not_le.1 h)]

end timerTick

/-! ## The lowest pressed key -/

theorem lowestPressed_eq_some {s : State} {k : Nat} (hk : k < 16) (hpressed : s.keys[k] = true)
    (hlower : ∀ j, (hj : j < k) → s.keys[j]'(by omega) = false) : s.lowestPressed = some k := by
  obtain ⟨-, hall⟩ | ⟨k', hk', hlow, hpressed', hlower'⟩ := s.lowestPressed_cases
  · exact absurd ((hall k hk).symm.trans hpressed) Bool.false_ne_true
  · rcases Nat.lt_trichotomy k k' with hlt | rfl | hgt
    · exact absurd ((hlower' k hlt).symm.trans hpressed) Bool.false_ne_true
    · exact hlow
    · exact absurd ((hlower k' hgt).symm.trans hpressed') Bool.false_ne_true

theorem lowestPressed_eq_none {s : State} (h : ∀ k, (hk : k < 16) → s.keys[k] = false) : s.lowestPressed = none := by
  obtain ⟨hlow, -⟩ | ⟨k, hk, -, hpressed, -⟩ := s.lowestPressed_cases
  · exact hlow
  · exact absurd ((h k hk).symm.trans hpressed) Bool.false_ne_true

/-! ## The obligations -/

/-- Settles O47: the step is the timer clock and then the register write of the DT it left. -/
theorem delayTimerReadAfterDecay : Obligations.DelayTimerReadAfterDecay := by
  intro s x hm hpc hd
  have hstep := step_of_decoded hm (fetch_of_pc_le hpc) hd
  rw [exec_ldVxDT, takeNextInputs] at hstep
  refine ⟨_, hstep, ?_, timerTick_dt_toNat⟩
  rw [State.getV_nextInputs, State.getV_advance, State.getV_setV, if_pos rfl]
  rfl

/-- Settles O48: the subtraction of natural numbers is 0 for a clock that went back, so that each clause says whether the time
passed meets the period. -/
theorem timerClockRule : Obligations.TimerClockRule := by
  intro s period now
  refine ⟨fun hdue => ?_, fun hearly => timerTick_of_not_due (by omega)⟩
  rw [timerTick_of_due (show period ≤ now - s.lastTick by omega)]
  exact ⟨decayTimer_true_toNat s.dt, decayTimer_true_toNat s.st, rfl⟩

/-- Settles O49: the lowest pressed key is stored, and with none pressed the instruction waits. -/
theorem waitForKey : Obligations.WaitForKey := by
  intro s x
  refine ⟨fun k hk hpressed hlower => ?_, fun hnone => execLdVxK_of_none x s (lowestPressed_eq_none hnone)⟩
  have hget : ∀ r, (s.setV x (BitVec.ofNat 8 k)).getV r = if r = x then BitVec.ofNat 8 k else s.getV r :=
    s.getV_setV x (BitVec.ofNat 8 k)
  refine ⟨_, execLdVxK_of_pressed x s (lowestPressed_eq_some hk hpressed hlower), ?_, fun r hr => ?_, rfl, rfl, rfl⟩
  · exact (congrArg BitVec.toNat ((hget x).trans (if_pos rfl))).trans (digit_toNat (by omega))
  · exact (hget r).trans (if_neg hr)

end Sys2Proof.Machine
end

section
/-! PROOFS. Reset and the host's operations (spec/70_reset_and_hazards.md, spec/60_exceptions.md): what reset leaves, load, setKey. -/

namespace Sys2Proof.Machine

/-! ## Memory at reset -/

theorem construct_byte_of_lt (t0 : Nat) (fontTable : FontTable) {a : Nat} (ha : a < 0x050) :
    (construct t0 fontTable).mem.byte a = fontTable[a] := by
  rw [construct_byte, List.getElem?_eq_getElem (by simpa using ha), Option.getD_some, Vector.getElem_toList]

theorem construct_byte_of_le (t0 : Nat) (fontTable : FontTable) {a : Nat} (ha : 0x050 ≤ a) :
    (construct t0 fontTable).mem.byte a = 0x00#8 := by
  rw [construct_byte, List.getElem?_eq_none (by simpa using ha), Option.getD_none]

/-- Nothing is loaded at 0x200, so the first fetch reads 0x0000, which no row decodes (R710). -/
theorem step_construct (t0 : Nat) (fontTable : FontTable) :
    step (construct t0 fontTable) = .next (((construct t0 fontTable).timerTick Config.timerPeriod
      (construct t0 fontTable).now).halt .unknownOpcode (some 0x0000#16) 0).nextInputs := by
  have hf : (construct t0 fontTable).fetch = .ok 0x0000#16 := by
    rw [fetch_of_pc_le (by rw [construct_pc]; decide), construct_pc, construct_byte_of_le t0 fontTable (by decide),
      construct_byte_of_le t0 fontTable (by decide)]
    rfl
  exact step_of_unknown (w := 0x0000#16) (by rw [construct_mode]; decide) hf (by decide)

/-! ## Load -/

section load

variable {s : State} {bytes : List Byte} (hm : s.mode ≠ .halted) (hcount : s.stepCount = 0)

include hm hcount

theorem load_of_fits (hlen : bytes.length ≤ Config.romMax) :
    load bytes s = .next (.ok, { s with mem := s.mem.writeBytes Config.programStart bytes }) := by
  rw [load, if_neg (by simp [hm, hcount]), if_neg (Nat.not_lt.2 hlen)]

theorem load_of_too_large (hlen : Config.romMax < bytes.length) : load bytes s = .next (.romTooLarge bytes.length, s) := by
  rw [load, if_neg (by simp [hm, hcount]), if_pos hlen]

end load

/-! ## The obligations -/

/-- Settles O50: the registers, stack, display and latch of the reset state are filled with one value each, and `construct` sets
two fields of it. -/
theorem resetValues : Obligations.ResetValues :=
  ⟨fun r => Vector.getElem_replicate r.isLt, rfl, rfl, rfl, fun _ hk => Vector.getElem_replicate hk, rfl, rfl, rfl, rfl,
    blankDisplay_pixel, fun _ hk => Vector.getElem_replicate hk, fun _ _ => rfl⟩

/-- Settles O51: the bytes of `construct` for every font, and the first and last glyph of the default read out. -/
theorem resetMemory : Obligations.ResetMemory :=
  ⟨fun t0 fontTable _ ha => construct_byte_of_lt t0 fontTable ha, fun t0 fontTable _ ha => construct_byte_of_le t0 fontTable ha,
    fun t0 => by rw [construct_default], by decide, by decide⟩

/-- Settles O56: a ROM that fits is one run of writes at 0x200, an empty one writes nothing, and the first fetch then reads
0x0000. -/
theorem loadCopiesTheRom : Obligations.LoadCopiesTheRom := by
  intro s bytes hwf hm hcount
  refine ⟨fun hlen => ?_, load_of_too_large hm hcount, fun t0 fontTable => ⟨?_, _, step_construct t0 fontTable, rfl, rfl⟩⟩
  · have hr : bytes.length = 0 ∨ 0x200 + bytes.length ≤ 0x1000 := .inr (by omega)
    exact ⟨_, load_of_fits hm hcount hlen, fun k hk => Memory.byte_writeBytes_inside hwf hr hk,
      fun a ha => Memory.byte_writeBytes_outside hwf hr ha, rfl⟩
  · exact load_of_fits (by rw [construct_mode]; decide) (construct_stepCount t0 fontTable) (Nat.zero_le _)

/-- Settles O57: a step that ends in a next state counts itself. -/
theorem loadRefusedAfterAStep : Obligations.LoadRefusedAfterAStep := by
  intro s t bytes hstep
  obtain ⟨-, u, -, rfl⟩ := step_eq_next hstep
  exact if_pos (.inr (Nat.succ_ne_zero _))

/-- Settles O58: an index up to 15 writes the one key, a larger one halts. -/
theorem setKeyWritesOneKey : Obligations.SetKeyWritesOneKey := by
  intro s k b hm
  refine ⟨fun hk => ?_, fun hk => ?_⟩
  · rw [setKey, if_neg hm, dif_pos hk]
    refine ⟨fun j hj => ?_, rfl⟩
    rw [Vector.getElem_set]
    simp only [eq_comm]
  · rw [setKey, if_neg hm, dif_neg (Nat.not_lt.2 hk)]
    rfl

end Sys2Proof.Machine
end
